-- ==== Sys2Proof/Word.lean ====
section
/-! DEFINITION. The words of the block: bytes and the five word formats of spec/30_encoding.md. -/

namespace Sys2Proof

/-- One byte: of the packet buffer, of the encoding-table ROM, of an encoded word (rules R16, R42). -/
abbrev Byte := BitVec 8

/-- Format `IV6`, the input vector of one clock cycle: bit 5 `rst`, 4 `us_tick`, 3 `gate_edge`, 2 `gate_level`,
1 `sqck_rise`, 0 `subq` (rule R60). -/
abbrev InputVector := BitVec 6

/-- Format `PKT96`: the 96-bit packet word `P`, `P[n]` the `n`-th received bit (rules R41, R64). -/
abbrev PacketWord := BitVec 96

/-- Format `FSM3`: the controller state code (rules R21, R67). -/
abbrev FsmCode := BitVec 3

/-- Format `SYM1`: one symbol (rule R68). -/
abbrev SymbolCode := BitVec 1

/-- Format `STR44`: one encoded string, bit 0 sent first (rule R68). -/
abbrev StringWord := BitVec 44

end Sys2Proof
end

