-- ==== Sys2Proof/Config.lean ====
section
/-! DEFINITION. The constants of rule R7 (spec/00_scope.md), the open parameters of spec/92_eei_decisions.md as one plain record,
and the one free value of the model (what the environment puts on the input port beyond the given trace). -/

namespace Sys2Proof

namespace Config

/-- `RESYNC_GAP_US`, fixed by the source (rule R7). -/
def resyncGapUs : Nat := 180
/-- `HYST_TRIGGER`, fixed by the source (rule R7). -/
def hystTrigger : Nat := 14
/-- `HYST_CLAMP`, fixed by the source (rule R7). -/
def hystClamp : Nat := 11
/-- `MODE_THRESHOLD`, fixed by the source (rule R7). -/
def modeThreshold : Nat := 100
/-- `T_SETTLE_US`, fixed by the source (rule R7). -/
def tSettleUs : Nat := 1000000
/-- `STRING_BITS`, fixed by the source (rule R7). -/
def stringBits : Nat := 44
/-- `N_STRINGS`, fixed by the source (rule R7). -/
def nStrings : Nat := 3
/-- `STRING_BYTES`, fixed by the source (rule R7). -/
def stringBytes : Nat := 6
/-- `PKT_BYTES`, fixed by the source (rule R7). -/
def pktBytes : Nat := 12
/-- `N_ROUNDS`, fixed by the source (rule R7). -/
def nRounds : Nat := 2

/-- FREE VALUE: the input vector the environment presents in the `n`-th cycle after the given stimulus trace has run out.
Nothing constrains it (notes/assumptions/2.md). -/
opaque freeInput : Nat → InputVector

end Config

/-- `COINCIDENT_ORDER` (decision D2): the order of coincident events in one cycle, a permutation of
S = `SQCK_RISE`, G = `GATE_EDGE`, T = `US_TICK`. -/
inductive CoincidentOrder where
  | sgt | stg | gst | gts | tsg | tgs
  deriving DecidableEq, Repr

/-- `PRIMARY_GROUPING` (decision D7): how the unbracketed primary predicate is grouped. -/
inductive Grouping where
  | guarded | loose
  deriving DecidableEq, Repr

/-- `FINALIZE_ON` (decision D12): which event finalises the mode. -/
inductive FinalizeOn where
  | tick | edge
  deriving DecidableEq, Repr

/-- The parameters of one instance of the block (rule R7 and the table of open parameters of spec/92_eei_decisions.md). -/
structure Params where
  /-- `T_BIT_US`, the bit period (decision D15). -/
  tBitUs : Nat
  /-- `T_STRING_US`, the pause after each string (decision D15). -/
  tStringUs : Nat
  /-- `TSW`, the width of `usCount` and `lastTs` (decision D3). -/
  tsw : Nat
  /-- `EDGE_CNT_WIDTH`, the width of `highEdges` and `lowEdges` (decision D11). -/
  edgeCntWidth : Nat
  /-- `DELAY_WIDTH`, the width of `delayCnt` (decision D17). -/
  delayWidth : Nat
  /-- `COINCIDENT_ORDER` (decision D2). -/
  order : CoincidentOrder
  /-- `PRIMARY_GROUPING` (decision D7). -/
  grouping : Grouping
  /-- `FINALIZE_ON` (decision D12). -/
  finalizeOn : FinalizeOn
  /-- `PAUSE_AFTER_LAST` (decision D16). -/
  pauseAfterLast : Bool
  deriving DecidableEq, Repr

/-- The defaults of spec/92_eei_decisions.md, "Open parameters in one place". -/
def Params.default : Params :=
  { tBitUs := 4000, tStringUs := 90000, tsw := 32, edgeCntWidth := 32, delayWidth := 17,
    order := .sgt, grouping := .guarded, finalizeOn := .tick, pauseAfterLast := true }

/-- The constraints on the parameters that rules R7 and R175 state. -/
def Params.wf (p : Params) : Bool :=
  decide (1 ≤ p.tBitUs) && decide (1 ≤ p.tStringUs)
    && decide (max p.tBitUs p.tStringUs - 1 < 2 ^ p.delayWidth)
    && decide (Config.tSettleUs < 2 ^ p.tsw) && decide (Config.resyncGapUs + 1 < 2 ^ p.tsw)
    && decide (Config.modeThreshold + 1 < 2 ^ p.edgeCntWidth)

/-- `L`, the length in ticks of one string with its pause (rule R122). -/
def Params.stringTicks (p : Params) : Nat := Config.stringBits * p.tBitUs + p.tStringUs

end Sys2Proof
end

