-- ==== Sys2Proof/Syntax.lean ====
section
/-! DEFINITION. The operations of the block: one constructor per row of spec/opcode_table.json (rule R72), the word formats,
the row names of the two decoded tables `PKT96` and `FSM3`, and the stimulus assembly of rule R73. -/

namespace Sys2Proof

/-- One operation of the block, in the order of spec/opcode_table.json. A packet class carries the packet it was decoded from
(rule R91: "Operands: the packet"). -/
inductive Instr where
  | reset
  | nop
  | sqckRise (d : Bool)
  | gateEdge (l : Bool)
  | usTick
  | pktPrimaryA0 (p : PacketWord)
  | pktPrimaryA1 (p : PacketWord)
  | pktPrimaryA2 (p : PacketWord)
  | pktPrimary01Lo01 (p : PacketWord)
  | pktPrimary01Lo2 (p : PacketWord)
  | pktPrimary01Hi98 (p : PacketWord)
  | pktPrimary01HiA0 (p : PacketWord)
  | pktPrimary01HiC0 (p : PacketWord)
  | pktSecondaryFlag (p : PacketWord)
  | pktSecondary01 (p : PacketWord)
  | pktOther (p : PacketWord)
  | waitMode
  | waitReq
  | start
  | sendE
  | sendA
  | sendI
  | endInjection
  | fsmReserved7
  | sym0
  | sym1
  | strScee
  | strScea
  | strScei
  deriving DecidableEq, Repr

/-- The word formats of spec/30_encoding.md. -/
inductive Format where
  | iv6 | pkt96 | fsm3 | sym1 | str44
  deriving DecidableEq, Repr

/-- The eleven rows of the packet table (rule R66). -/
inductive PktRow where
  | primaryA0 | primaryA1 | primaryA2
  | primary01Lo01 | primary01Lo2 | primary01Hi98 | primary01HiA0 | primary01HiC0
  | secondaryFlag | secondary01 | other
  deriving DecidableEq, Repr

/-- The operation that a row of the packet table selects, applied to the packet. -/
def PktRow.instr (r : PktRow) (p : PacketWord) : Instr :=
  match r with
  | .primaryA0 => .pktPrimaryA0 p
  | .primaryA1 => .pktPrimaryA1 p
  | .primaryA2 => .pktPrimaryA2 p
  | .primary01Lo01 => .pktPrimary01Lo01 p
  | .primary01Lo2 => .pktPrimary01Lo2 p
  | .primary01Hi98 => .pktPrimary01Hi98 p
  | .primary01HiA0 => .pktPrimary01HiA0 p
  | .primary01HiC0 => .pktPrimary01HiC0 p
  | .secondaryFlag => .pktSecondaryFlag p
  | .secondary01 => .pktSecondary01 p
  | .other => .pktOther p

/-- The three packet classes (rule R66: "The eight `PKT.PRIMARY` rows are one class"). -/
inductive PktClass where
  | primary | secondary | other
  deriving DecidableEq, Repr

/-- The class a row of the packet table belongs to (rule R66). -/
def PktRow.cls : PktRow → PktClass
  | .primaryA0 | .primaryA1 | .primaryA2 => .primary
  | .primary01Lo01 | .primary01Lo2 | .primary01Hi98 | .primary01HiA0 | .primary01HiC0 => .primary
  | .secondaryFlag | .secondary01 => .secondary
  | .other => .other

/-- The eight controller state codes (rule R67). -/
inductive FsmRow where
  | waitMode | waitReq | start | sendE | sendA | sendI | endInjection | reserved7
  deriving DecidableEq, Repr

/-- The operation that a controller state code selects at a tick (rule R67). -/
def FsmRow.instr : FsmRow → Instr
  | .waitMode => .waitMode
  | .waitReq => .waitReq
  | .start => .start
  | .sendE => .sendE
  | .sendA => .sendA
  | .sendI => .sendI
  | .endInjection => .endInjection
  | .reserved7 => .fsmReserved7

/-- The three encoded strings, in their fixed order (rules R42, R117, R130). -/
inductive Region where
  | scee | scea | scei
  deriving DecidableEq, Repr

/-- String index `s` (rule R21: 0 SCEE, 1 SCEA, 2 SCEI). -/
def Region.index : Region → Nat
  | .scee => 0
  | .scea => 1
  | .scei => 2

/-- One line of the stimulus assembly (rule R73): `RST`, `NOP`, `SQCK d`, `GATE l`, `TICK`, `a + b`. -/
inductive StimLine where
  | rst
  | nop
  | sqck (d : Bool)
  | gate (l : Bool)
  | tick
  | plus (a b : StimLine)
  deriving DecidableEq, Repr

/-- A stimulus program (rule R73): lines, the pseudo-instructions, and sequencing. -/
inductive StimProg where
  | line (l : StimLine)
  | ticks (n : Nat)
  | pkt (p : PacketWord)
  | pktg (g : Nat) (p : PacketWord)
  | gates (n : Nat)
  | rep (n : Nat) (body : StimProg)
  | seq (a b : StimProg)
  deriving DecidableEq, Repr

end Sys2Proof
end

