-- ==== Sys2Proof/Decode.lean ====
section
/-! DEFINITION. The decoder of the five word formats (spec/30_encoding.md), total on any bytes and rejecting by name, and after it the
encoder, written from the same tables; then the packet predicates of rule R90, which the packet table must agree with. -/

namespace Sys2Proof

/-- A table row with this mask and match selects the word `v` (rules R61, R66). -/
def selects {n : Nat} (mask value v : BitVec n) : Bool := v &&& mask == value

/-- What decoding depends on besides the word: the open parameters `COINCIDENT_ORDER` and `PRIMARY_GROUPING`, and whether `hyst > 0`
(rule R71: `hyst` "enables the `PKT.SECONDARY` rows when it is above 0"). -/
structure DecodeCtx where
  order : CoincidentOrder
  grouping : Grouping
  hystPositive : Bool
  deriving DecidableEq, Repr

/-! ## `IV6`, the input vector (rules R60 to R63) -/

/-- Operand `d = IV[0]` of `SQCK_RISE` (rule R69). -/
def ivSample (v : InputVector) : Bool := v.getLsbD 0

/-- Operand `l = IV[2]` of `GATE_EDGE` (rule R69). -/
def ivLevel (v : InputVector) : Bool := v.getLsbD 2

/-- The row `RESET` of rule R61 fits. -/
def ivIsReset (v : InputVector) : Bool := selects 0x20 0x20 v
/-- The row `SQCK_RISE d` of rule R61 fits. -/
def ivIsSqck (v : InputVector) : Bool := selects 0x22 0x02 v
/-- The row `GATE_EDGE l` of rule R61 fits. -/
def ivIsGate (v : InputVector) : Bool := selects 0x28 0x08 v
/-- The row `US_TICK` of rule R61 fits. -/
def ivIsTick (v : InputVector) : Bool := selects 0x30 0x10 v
/-- The row `NOP` of rule R61 fits. -/
def ivIsNop (v : InputVector) : Bool := selects 0x3A 0x00 v

/-- The `SQCK_RISE` operation of a vector, if its strobe is 1. -/
def ivSqckOps (v : InputVector) : List Instr := if ivIsSqck v then [.sqckRise (ivSample v)] else []
/-- The `GATE_EDGE` operation of a vector, if its strobe is 1. -/
def ivGateOps (v : InputVector) : List Instr := if ivIsGate v then [.gateEdge (ivLevel v)] else []
/-- The `US_TICK` operation of a vector, if its strobe is 1. -/
def ivTickOps (v : InputVector) : List Instr := if ivIsTick v then [.usTick] else []

/-- The operations of one cycle in the order they execute (rules R61, R62; the other orders are decision D2's parameter).
Every vector decodes: the don't-care bits are ignored (rule R70). -/
def decodeIV6 (o : CoincidentOrder) (v : InputVector) : List Instr :=
  if ivIsReset v then [.reset]
  else if ivIsNop v then [.nop]
  else
    match o with
    | .sgt => ivSqckOps v ++ ivGateOps v ++ ivTickOps v
    | .stg => ivSqckOps v ++ ivTickOps v ++ ivGateOps v
    | .gst => ivGateOps v ++ ivSqckOps v ++ ivTickOps v
    | .gts => ivGateOps v ++ ivTickOps v ++ ivSqckOps v
    | .tsg => ivTickOps v ++ ivSqckOps v ++ ivGateOps v
    | .tgs => ivTickOps v ++ ivGateOps v ++ ivSqckOps v

/-! ## Bytes and numbers -/

/-- The number a byte string is, first byte least significant (rules R41, R42, R43). -/
def leValue : List Byte → Nat
  | [] => 0
  | b :: bs => b.toNat + 256 * leValue bs

/-! ## `PKT96`, the packet (rules R64 to R66) -/

/-- Byte `k` of the packet word, `P[8k+7 : 8k]` (rules R41, R64). -/
def pktByte (p : PacketWord) (k : Nat) : Byte := p.extractLsb' (8 * k) 8

/-- The packet word of twelve bytes, `pkt[0]` first: `P = sum over k of pkt[k] << (8 * k)` (rule R41). -/
def packetOfBytes (bs : List Byte) : PacketWord := BitVec.ofNat 96 (leValue bs)

/-- One row of the packet table: mask, match, and the condition `hyst > 0` where the row has it (rule R66). -/
structure PktPattern where
  row : PktRow
  mask : PacketWord
  value : PacketWord
  needsHyst : Bool
  deriving DecidableEq, Repr

/-- The five rows for `b2 == 0x01` (rule R66). -/
def point01Rows : List PktPattern :=
  [ ⟨.primary01Lo01, 0x0000000000FF0000FEFFFFD0, 0x000000000000000000010040, false⟩,
    ⟨.primary01Lo2,  0x0000000000FF0000FFFFFFD0, 0x000000000000000002010040, false⟩,
    ⟨.primary01Hi98, 0x0000000000FF0000F8FFFFD0, 0x000000000000000098010040, false⟩,
    ⟨.primary01HiA0, 0x0000000000FF0000E0FFFFD0, 0x0000000000000000A0010040, false⟩,
    ⟨.primary01HiC0, 0x0000000000FF0000C0FFFFD0, 0x0000000000000000C0010040, false⟩ ]

/-- `PRIMARY_GROUPING` = `loose` (decision D7): a row for `b2 == 0x01` tests only bytes 2 and 3 (notes/assumptions/12.md). -/
def loosenRow (r : PktPattern) : PktPattern :=
  { r with mask := r.mask &&& 0xFFFF0000, value := r.value &&& 0xFFFF0000 }

/-- The packet table in priority order (rule R66), under either grouping (decision D7). -/
def pktTable (g : Grouping) : List PktPattern :=
  [ ⟨.primaryA0, 0x0000000000FF000000FFFFD0, 0x000000000000000000A00040, false⟩,
    ⟨.primaryA1, 0x0000000000FF000000FFFFD0, 0x000000000000000000A10040, false⟩,
    ⟨.primaryA2, 0x0000000000FF000000FFFFD0, 0x000000000000000000A20040, false⟩ ]
  ++ (match g with
      | .guarded => point01Rows
      | .loose => point01Rows.map loosenRow)
  ++ [ ⟨.secondaryFlag, 0x0000000000FF00000000FFD0, 0x000000000000000000000040, true⟩,
       ⟨.secondary01,   0x0000000000FF00000000FFFF, 0x000000000000000000000001, true⟩ ]

/-- The row fits the packet and its condition on `hyst` holds (rule R66). -/
def PktPattern.fits (r : PktPattern) (hystPositive : Bool) (p : PacketWord) : Bool :=
  selects r.mask r.value p && (!r.needsHyst || hystPositive)

/-- "Rows are tried from the top; the first row whose mask and match fit, and whose condition on `hyst` holds, gives the class"
(rule R66); `PKT.OTHER` is the default. -/
def pktRow (g : Grouping) (hystPositive : Bool) (p : PacketWord) : PktRow :=
  match (pktTable g).find? (fun r => r.fits hystPositive p) with
  | some r => r.row
  | none => .other

/-- The operation of a complete packet. Every packet has one (rule R70). -/
def decodePkt96 (g : Grouping) (hystPositive : Bool) (p : PacketWord) : Instr :=
  (pktRow g hystPositive p).instr p

/-- `FLAG(b0)` (rules R65, R90). -/
def flagByte (b0 : Byte) : Bool := b0 &&& 0xD0 == 0x40

/-- `GUARD(p)`: bytes 1 and 6 are zero (rule R90). -/
def guardBytes (p : PacketWord) : Bool := pktByte p 1 == 0x00 && pktByte p 6 == 0x00

/-- The alternative `b2` in 0xA0, 0xA1, 0xA2 of `POINT(p)` (rule R90). -/
def pointA (p : PacketWord) : Bool := pktByte p 2 == 0xA0 || pktByte p 2 == 0xA1 || pktByte p 2 == 0xA2

/-- The alternative `b2 == 0x01` of `POINT(p)`, with its unsigned range test on `b3` (rules R90, R96). -/
def point01 (p : PacketWord) : Bool :=
  pktByte p 2 == 0x01 && (decide (0x98 ≤ (pktByte p 3).toNat) || decide ((pktByte p 3).toNat ≤ 0x02))

/-- `PRIMARY(p)` (rule R90), under either grouping (decision D7). -/
def primaryMatch (g : Grouping) (p : PacketWord) : Bool :=
  match g with
  | .guarded => flagByte (pktByte p 0) && guardBytes p && (pointA p || point01 p)
  | .loose => (flagByte (pktByte p 0) && guardBytes p && pointA p) || point01 p

/-- `SECONDARY(p, h)` (rule R90). -/
def secondaryMatch (hystPositive : Bool) (p : PacketWord) : Bool :=
  hystPositive && (pktByte p 0 == 0x01 || flagByte (pktByte p 0)) && guardBytes p

/-- The class as `CLASSIFY` decides it from the predicates (rule R90). -/
def pktClass (g : Grouping) (hystPositive : Bool) (p : PacketWord) : PktClass :=
  if primaryMatch g p then .primary
  else if secondaryMatch hystPositive p then .secondary
  else .other

/-! ## `FSM3`, `SYM1`, `STR44` (rules R67, R68, R130) -/

/-- The row of the controller state code (rule R67). -/
def fsmRow (c : FsmCode) : FsmRow :=
  match c.toNat with
  | 0 => .waitMode
  | 1 => .waitReq
  | 2 => .start
  | 3 => .sendE
  | 4 => .sendA
  | 5 => .sendI
  | 6 => .endInjection
  | _ => .reserved7

/-- The code of a row (rule R21). -/
def fsmCode : FsmRow → FsmCode
  | .waitMode => 0
  | .waitReq => 1
  | .start => 2
  | .sendE => 3
  | .sendA => 4
  | .sendI => 5
  | .endInjection => 6
  | .reserved7 => 7

/-- The controller action of a state code (rule R67). -/
def decodeFsm3 (c : FsmCode) : Instr := (fsmRow c).instr

/-- "Value 0 selects the operation `SYM.0` and value 1 selects `SYM.1`" (rule R68). -/
def decodeSym1 (b : SymbolCode) : Instr := if b.toNat = 0 then .sym0 else .sym1

/-- The 44-bit number of a string, string bit 0 as bit 0 (rule R130, spec/opcode_table.json). -/
def stringWord : Region → StringWord
  | .scee => 0x2EA5D4BC959
  | .scea => 0x2FA5D4BC959
  | .scei => 0x2DA5D4BC959

/-- The data row of a string. -/
def Region.instr : Region → Instr
  | .scee => .strScee
  | .scea => .strScea
  | .scei => .strScei

/-- The string a 44-bit word is, if it is one of the three (rule R130). -/
def stringOf (w : StringWord) : Option Region :=
  if w = stringWord .scee then some .scee
  else if w = stringWord .scea then some .scea
  else if w = stringWord .scei then some .scei
  else none

/-! ## Bytes to operations -/

/-- How many bytes a word of the format takes when it is laid out as bytes, first bit lowest (rules R41, R42, R71). -/
def Format.byteCount : Format → Nat
  | .iv6 | .fsm3 | .sym1 => 1
  | .pkt96 => 12
  | .str44 => 6

/-- How many bits a word of the format has (rule R71). -/
def Format.bits : Format → Nat
  | .iv6 => 6
  | .fsm3 => 3
  | .sym1 => 1
  | .pkt96 => 96
  | .str44 => 44

/-- Why the decoder refuses bytes, by name. -/
inductive DecodeReject where
  /-- the byte string has not the fixed length of the format (rule R71) -/
  | wrongLength (f : Format) (n : Nat)
  /-- a bit above the format's width is set -/
  | unusedBitsSet (f : Format)
  /-- a 44-bit word that is none of the three strings (rule R130) -/
  | notAnEncodedString
  deriving DecidableEq, Repr

/-- `n` bytes of a number, least significant first. -/
def leBytes : Nat → Nat → List Byte
  | 0, _ => []
  | n + 1, v => BitVec.ofNat 8 v :: leBytes n (v / 256)

/-- The word of a format that has the value `v`, decoded. -/
def decodeValue (c : DecodeCtx) (f : Format) (v : Nat) : Except DecodeReject (List Instr) :=
  match f with
  | .iv6 => if v < 2 ^ 6 then .ok (decodeIV6 c.order (BitVec.ofNat 6 v)) else .error (.unusedBitsSet .iv6)
  | .fsm3 => if v < 2 ^ 3 then .ok [decodeFsm3 (BitVec.ofNat 3 v)] else .error (.unusedBitsSet .fsm3)
  | .sym1 => if v < 2 ^ 1 then .ok [decodeSym1 (BitVec.ofNat 1 v)] else .error (.unusedBitsSet .sym1)
  | .pkt96 => .ok [decodePkt96 c.grouping c.hystPositive (BitVec.ofNat 96 v)]
  | .str44 =>
    -- bits 44 to 47 are padding: any value, never read (U5 of spec/93_implementation_defined.md)
    match stringOf (BitVec.ofNat 44 v) with
    | some r => .ok [r.instr]
    | none => .error .notAnEncodedString

/-- Decode the bytes of one word of the given format: the operations it selects, in execution order. -/
def decode (c : DecodeCtx) (f : Format) (bs : List Byte) : Except DecodeReject (List Instr) :=
  if bs.length = f.byteCount then decodeValue c f (leValue bs)
  else .error (.wrongLength f bs.length)

/-! ## The encoder -/

/-- The format an operation's word has (rule R72). -/
def Instr.format : Instr → Format
  | .reset => .iv6
  | .nop => .iv6
  | .sqckRise _ => .iv6
  | .gateEdge _ => .iv6
  | .usTick => .iv6
  | .pktPrimaryA0 _ => .pkt96
  | .pktPrimaryA1 _ => .pkt96
  | .pktPrimaryA2 _ => .pkt96
  | .pktPrimary01Lo01 _ => .pkt96
  | .pktPrimary01Lo2 _ => .pkt96
  | .pktPrimary01Hi98 _ => .pkt96
  | .pktPrimary01HiA0 _ => .pkt96
  | .pktPrimary01HiC0 _ => .pkt96
  | .pktSecondaryFlag _ => .pkt96
  | .pktSecondary01 _ => .pkt96
  | .pktOther _ => .pkt96
  | .waitMode => .fsm3
  | .waitReq => .fsm3
  | .start => .fsm3
  | .sendE => .fsm3
  | .sendA => .fsm3
  | .sendI => .fsm3
  | .endInjection => .fsm3
  | .fsmReserved7 => .fsm3
  | .sym0 => .sym1
  | .sym1 => .sym1
  | .strScee => .str44
  | .strScea => .str44
  | .strScei => .str44

/-- The value of the word of an operation: the canonical encoding of rule R61, the packet, the state code of rule R21, the symbol of
rule R68, the string of rule R130. -/
def encodeValue : Instr → Nat
  | .reset => 0x20
  | .nop => 0x00
  | .sqckRise d => 0x02 + d.toNat
  | .gateEdge l => 0x08 + 4 * l.toNat
  | .usTick => 0x10
  | .pktPrimaryA0 p => p.toNat
  | .pktPrimaryA1 p => p.toNat
  | .pktPrimaryA2 p => p.toNat
  | .pktPrimary01Lo01 p => p.toNat
  | .pktPrimary01Lo2 p => p.toNat
  | .pktPrimary01Hi98 p => p.toNat
  | .pktPrimary01HiA0 p => p.toNat
  | .pktPrimary01HiC0 p => p.toNat
  | .pktSecondaryFlag p => p.toNat
  | .pktSecondary01 p => p.toNat
  | .pktOther p => p.toNat
  | .waitMode => 0
  | .waitReq => 1
  | .start => 2
  | .sendE => 3
  | .sendA => 4
  | .sendI => 5
  | .endInjection => 6
  | .fsmReserved7 => 7
  | .sym0 => 0
  | .sym1 => 1
  | .strScee => (stringWord .scee).toNat
  | .strScea => (stringWord .scea).toNat
  | .strScei => (stringWord .scei).toNat

/-- The bytes of an operation's word. -/
def encode (i : Instr) : List Byte := leBytes i.format.byteCount (encodeValue i)

/-! ## The opcode table's numbering -/

/-- Which format a word of the opcode table with this many bits has (notes/assumptions/16.md): formats are told apart by their length
(rule R71), and a one-byte word with no narrower length is the input vector of a cycle. -/
def tableFormat (nbits : Nat) : Option Format :=
  if nbits = 1 then some .sym1
  else if nbits = 3 then some .fsm3
  else if nbits = 6 then some .iv6
  else if nbits = 8 then some .iv6
  else if nbits = 44 then some .str44
  else if nbits = 48 then some .str44
  else if 48 < nbits ∧ nbits ≤ 96 then some .pkt96
  else none

/-- The context a word of the opcode table is decoded in: the defaults, with the rows that ask for `hyst > 0` enabled. -/
def tableCtx : DecodeCtx :=
  { order := Params.default.order, grouping := Params.default.grouping, hystPositive := true }

/-- The operation the decoder reads from a word of the opcode table: the first operation of an input vector's cycle, else the one
operation of the word. The bits above `nbits` are 0. -/
def decodeTableWord (nbits w : Nat) : Option Instr :=
  match tableFormat nbits with
  | none => none
  | some f =>
    match decode tableCtx f (leBytes f.byteCount (w % 2 ^ nbits)) with
    | .ok (i :: _) => some i
    | .ok [] => none
    | .error _ => none

end Sys2Proof
end

