-- ==== Sys2Proof/Machine/State.lean ====
section
/-! DEFINITION. The state of the block: the 21 registers and the packet buffer of rule R10 (spec/10_state.md) under the spec's names,
and five fields of the model's own (parameters, stimulus trace, free-input counter, fault report); the reasons a step can stop. -/

namespace Sys2Proof.Machine

/-- Why the machine faults. Every one is unreachable from reset (rules R38, R44, R142). -/
inductive Fault where
  /-- `raise ContractViolation(s, i)` (rules R131, R142): raised by the table read `bitAt` with a string index above 2 or a bit index
  above 43. "The step has no successor state." Safe. -/
  | contractViolation (stringIndex bitIndex : Nat)
  /-- A byte completes with `pktPos` 12 to 15 (rule R70, U3): raised by `pktWrite`. Safe. -/
  | packetIndexOutOfRange (index : Nat)
  /-- A packet is classified with `hyst` 14 or 15 (U3): raised by the packet classes. Safe. -/
  | hystOutOfRange (hyst : BitVec 4)
  /-- A `SEND` state acts with `sym` 46 to 63 (rule R70, U3): raised by the `SEND` states. Safe. -/
  | symOutOfRange (sym : BitVec 6)
  /-- A tick in the reserved state code 7 (rules R70, R142, U2). Never the outcome of a step: the block goes on without a controller
  step, and the model reports this fault in the field `reported`. Safe. -/
  | reservedControllerState
  deriving DecidableEq, Repr

/-- Why the machine refuses. -/
inductive Refusal where
  /-- An operation without a meaning yet: raised by no meaning, only by an arm of `exec`. Safe. -/
  | notModelled (mnemonic : String)
  /-- The parameters break a constraint of rules R7 and R175 ("a model refuses it"): raised by `step`. Safe. -/
  | unsupportedParameters
  deriving DecidableEq, Repr

/-- The packet buffer as a list of (byte index, byte) in one canonical form (`Memory.wf`): indices strictly rising and below 12, no entry
equal to 0x00, which an unlisted index reads as (rules R16, R37, R40). -/
abbrev Memory := List Host.Cell

/-- The state of the block. Registers that rule R7 gives a parameter as their width are numbers, kept below `2 ^ width` by the operations
(notes/assumptions/4.md). -/
structure State where
  /-- model's own: the parameters of this instance; no operation writes them (rule R34; notes/assumptions/3.md) -/
  params : Params
  /-- free-running microsecond counter, `TSW` bits (rule R11) -/
  usCount : Nat
  /-- `usCount` at the most recent `SQCK_RISE`, `TSW` bits (rule R12) -/
  lastTs : Nat
  /-- position of the next bit in the byte being assembled (rule R13) -/
  bitPos : BitVec 3
  /-- the byte being assembled (rule R14) -/
  byteAcc : BitVec 8
  /-- packet byte the next completed byte is stored to (rule R15) -/
  pktPos : BitVec 4
  /-- the packet buffer `pkt[0..11]` (rule R16) -/
  pkt : Memory
  /-- hysteresis counter (rule R17) -/
  hyst : BitVec 4
  /-- the one-slot request channel (rule R29) -/
  reqPending : Bool
  /-- high observations, `EDGE_CNT_WIDTH` bits (rule R18) -/
  highEdges : Nat
  /-- low observations, `EDGE_CNT_WIDTH` bits (rule R18) -/
  lowEdges : Nat
  /-- the mode is final (rule R25) -/
  modeDetected : Bool
  /-- the newer-drive variant was detected (rule R26) -/
  pu22Mode : Bool
  /-- passthrough enable (rule R27) -/
  pu22Inject : Bool
  /-- an injection owns the output line (rule R28) -/
  injectionRunning : Bool
  /-- controller state code (rule R21) -/
  fsm : BitVec 3
  /-- round counter (rule R22) -/
  round : BitVec 1
  /-- symbol counter (rule R23) -/
  sym : BitVec 6
  /-- delay down-counter, `DELAY_WIDTH` bits (rule R19) -/
  delayCnt : Nat
  /-- direction of `DATA`: true drives (rule R30) -/
  dataDir : Bool
  /-- level of `DATA` while driven (rule R30) -/
  dataOut : Bool
  /-- direction of `GATE`: true drives (rule R31) -/
  gateDir : Bool
  /-- level of `GATE` while driven (rule R31) -/
  gateOut : Bool
  /-- model's own: the input vectors of the coming cycles, next first (rules R5, R48; notes/assumptions/1.md) -/
  stimulus : List InputVector
  /-- model's own: how many input vectors were taken from `Config.freeInput` (notes/assumptions/2.md) -/
  freeIdx : Nat
  /-- model's own: the fault the model flags while the block goes on (rule R142; notes/assumptions/8.md) -/
  reported : Option Fault
  deriving DecidableEq, Repr

/-- The state right after reset: every register as rule R37 says, the default parameters, no stimulus, nothing reported. -/
def State.reset : State :=
  { params := Params.default
    usCount := 0, lastTs := 0
    bitPos := 0, byteAcc := 0, pktPos := 0, pkt := []
    hyst := 0, reqPending := false
    highEdges := 0, lowEdges := 0
    modeDetected := false, pu22Mode := false, pu22Inject := false, injectionRunning := false
    fsm := 0, round := 0, sym := 0, delayCnt := 0
    dataDir := false, dataOut := false, gateDir := false, gateOut := false
    stimulus := [], freeIdx := 0, reported := none }

end Sys2Proof.Machine
end

