-- ==== Sys2Proof/Machine/Operands.lean ====
section
/-! DEFINITION. The operands that rules assemble from bits (rule R69), the arithmetic of rule R8 on registers of a given width, and the
decoding context a state gives. -/

namespace Sys2Proof.Machine

/-- `(a + 1) mod 2^w` (rule R111). -/
def wrapInc (w a : Nat) : Nat := (a + 1) % 2 ^ w

/-- `(a - b) mod 2^w`, unsigned (rules R8, R81). -/
def wrapSub (w a b : Nat) : Nat := (a + (2 ^ w - b % 2 ^ w)) % 2 ^ w

/-- `sat_w(a + 1)`, that is `min(a + 1, 2^w - 1)` (rules R8, R101). -/
def satInc (w a : Nat) : Nat := min (a + 1) (2 ^ w - 1)

/-- `zext_8(d) << pos` (rule R69). -/
def placeSample (d : Bool) (pos : BitVec 3) : Byte := (BitVec.ofNat 8 d.toNat) <<< pos.toNat

/-- `(k + 1) mod 12` in the 4-bit register `pktPos` (rule R83). -/
def nextPktPos (k : BitVec 4) : BitVec 4 := BitVec.ofNat 4 ((k.toNat + 1) % Config.pktBytes)

/-- Byte index of the flat bit index `i`: `i >> 3` (rule R69). -/
def romByteIndex (i : Nat) : Nat := i / 8

/-- Bit position of the flat bit index `i`: `i & 7` (rule R69). -/
def romBitIndex (i : Nat) : Nat := i % 8

/-- The state code of the `SEND` state that sends a string: string index plus 3 (rule R21: "the string index is `fsm - 3`"). -/
def Region.code : Region → FsmCode
  | .scee => 3
  | .scea => 4
  | .scei => 5

/-- The decoding context of a state: the open parameters and `hyst > 0` (rule R71). -/
def decodeCtx (s : State) : DecodeCtx :=
  { order := s.params.order, grouping := s.params.grouping, hystPositive := decide (0 < s.hyst.toNat) }

end Sys2Proof.Machine
end

