-- ==== Sys2Proof/Machine/Flags.lean ====
section
/-! DEFINITION. The tests and the flag computations of the block: the gap test, the packet trigger, the mode decision, the request slot
(rules R24 to R29, R81, R94, R95, R104). There are no arithmetic condition codes (rule R24). -/

namespace Sys2Proof.Machine

/-- `elapsed` of rule R81: `(usCount - lastTs) mod 2^TSW`. -/
def elapsed (s : State) : Nat := wrapSub s.params.tsw s.usCount s.lastTs

/-- "`elapsed > RESYNC_GAP_US`", strictly (rule R81). -/
def gapExceeded (s : State) : Bool := decide (Config.resyncGapUs < elapsed s)

/-- "`hyst >= HYST_TRIGGER`" (rule R94). -/
def hystTriggers (s : State) : Bool := decide (Config.hystTrigger ≤ s.hyst.toNat)

/-- "`lowEdges > MODE_THRESHOLD`", strictly (rule R104). -/
def lowEdgesSayPu22 (s : State) : Bool := decide (Config.modeThreshold < s.lowEdges)

/-- "`modeDetected == 0 and usCount >= T_SETTLE_US`" (rule R104). -/
def finalizeDue (s : State) : Bool := !s.modeDetected && decide (Config.tSettleUs ≤ s.usCount)

/-- The two writes of the finalisation (rule R104). -/
def finalize (s : State) : State := { s with pu22Mode := lowEdgesSayPu22 s, modeDetected := true }

/-- `FINALIZE_CHECK` (rule R104). -/
def finalizeCheck (s : State) : State := if finalizeDue s then finalize s else s

/-- `REQUEST`: enqueue with back-pressure (rule R95). -/
def request (s : State) : State := if s.reqPending then s else { s with reqPending := true }

/-- `THRESHOLD`: the clamp, and the request unless an injection runs (rule R94). -/
def threshold (s : State) : State :=
  if hystTriggers s then
    if s.injectionRunning then { s with hyst := BitVec.ofNat 4 Config.hystClamp }
    else request { s with hyst := BitVec.ofNat 4 Config.hystClamp }
  else s

end Sys2Proof.Machine
end

