-- ==== Sys2Proof/Machine/Ops.lean ====
section
/-! DEFINITION. The named operations over the two memories and the registers: the packet buffer, the encoding-table ROM, raising the one
fault the spec raises and flagging the one it flags, sequencing, the time base, the pins. The block takes no exception and returns from
none (rules R140, R147, R148): an event saves nothing and jumps nowhere, so there is no exception entry to share. -/

namespace Sys2Proof.Machine

/-- What an operation answers. -/
abbrev Result := Host.Outcome State Fault Refusal

/-- Do `k` after `r`: statements execute in order, each seeing the writes before it (rule R8). -/
def andThen (r : Result) (k : State → Result) : Result :=
  match r with
  | .next s => k s
  | .fault f => .fault f
  | .refused why => .refused why

/-! ## The packet buffer (rules R40, R41, R44, R45) -/

/-- What an unlisted byte of the packet buffer reads as: its reset value 0x00 (rule R37). -/
def unlistedByte : Byte := 0x00

/-- Read one byte. -/
def Memory.read : Memory → Nat → Byte
  | [], _ => unlistedByte
  | (b, w) :: m, a => if b = a then w else Memory.read m a

/-- Write one byte, keeping the canonical form: the byte an unlisted index reads as is removed. -/
def Memory.write : Memory → Nat → Byte → Memory
  | [], a, v => if v = unlistedByte then [] else [(a, v)]
  | (b, w) :: m, a, v =>
    if a < b then (if v = unlistedByte then (b, w) :: m else (a, v) :: (b, w) :: m)
    else if a = b then (if v = unlistedByte then m else (a, v) :: m)
    else (b, w) :: Memory.write m a v

/-- Canonical from index `lo` on: indices strictly rising, at least `lo` and below 12, no byte equal to the unlisted one. -/
def Memory.wfFrom : Nat → Memory → Bool
  | _, [] => true
  | lo, (a, v) :: m => decide (lo ≤ a) && decide (a < Config.pktBytes) && !(v == unlistedByte) && Memory.wfFrom (a + 1) m

/-- The canonical form of the packet buffer. -/
def Memory.wf (m : Memory) : Bool := Memory.wfFrom 0 m

/-- `PktRead(k)` (rule R8). No read has a side effect (rule R45). -/
def pktRead (s : State) (k : Nat) : Byte := Memory.read s.pkt k

/-- `PktWrite(k, v)` (rules R8, R83). An index 12 to 15 is unreachable and faults (rule R70, U3). -/
def pktWrite (k : Nat) (v : Byte) (s : State) : Result :=
  if k < Config.pktBytes then .next { s with pkt := Memory.write s.pkt k v }
  else .fault (.packetIndexOutOfRange k)

/-- The packet word `P = sum over k of pkt[k] << (8 * k)` of a buffer (rule R41). -/
def packetWord (m : Memory) : PacketWord := packetOfBytes ((List.range Config.pktBytes).map (Memory.read m))

/-- Bytes stored at rising indices from `k` on. -/
def storeBytesFrom : Nat → List Byte → Memory → Memory
  | _, [], m => m
  | k, b :: bs, m => storeBytesFrom (k + 1) bs (Memory.write m k b)

/-- The first `n` bytes of a packet word, byte 0 first (rule R41). -/
def packetBytes (n : Nat) (p : PacketWord) : List Byte := (List.range n).map (pktByte p)

/-- The buffer that holds the packet word (rule R41). -/
def packetMemory (p : PacketWord) : Memory := storeBytesFrom 0 (packetBytes Config.pktBytes p) []

/-! ## The encoding-table ROM (rules R42, R130, R131) -/

/-- `rom[s][0..5]`, the byte values of rule R130. -/
def romBytes : Nat → List Byte
  | 0 => [0x59, 0xC9, 0x4B, 0x5D, 0xEA, 0x02]
  | 1 => [0x59, 0xC9, 0x4B, 0x5D, 0xFA, 0x02]
  | 2 => [0x59, 0xC9, 0x4B, 0x5D, 0xDA, 0x02]
  | _ => []

/-- `RomRead(s, k)` (rule R8). `bitAt` reads it inside its range only. -/
def romRead (s k : Nat) : Byte := (romBytes s).getD k 0x00

/-- The check and the read of `bitAt(s, i)`: `none` outside the range, where the call has no value (rule R131, U1). -/
def bitAt (s i : Nat) : Option SymbolCode :=
  if s < Config.nStrings ∧ i < Config.stringBits then
    some ((romRead s (romByteIndex i) >>> romBitIndex i).setWidth 1)
  else none

/-- `raise ContractViolation(s, i)`: the one `raise` of the spec. "The step has no successor state" and no cause is recorded in any
register (rule R142). -/
def raiseContractViolation (s i : Nat) : Result := .fault (.contractViolation s i)

/-- Flag a fault while the block goes on (rule R142: "a model should flag the state as a fault too"). -/
def report (f : Fault) (s : State) : State := { s with reported := some f }

/-! ## Registers and pins -/

/-- `TIMEBASE` (rule R111). -/
def timebase (s : State) : State := { s with usCount := wrapInc s.params.tsw s.usCount }

/-- Drive the output line low (rules R114, R118). -/
def driveDataLow (s : State) : State := { s with dataDir := true, dataOut := false }

/-- Release the output line; `dataOut` keeps its value (rules R30, R119, R121). -/
def releaseData (s : State) : State := { s with dataDir := false }

/-- Take the gate line and force it low, in the older-drive variant only (rule R114). -/
def takeGate (s : State) : State := if s.pu22Mode then s else { s with gateDir := true, gateOut := false }

/-- Release the gate line, in the older-drive variant only (rule R121). -/
def releaseGate (s : State) : State := if s.pu22Mode then s else { s with gateDir := false }

/-- The output ports `data_oe`, `data_o`, `gate_oe`, `gate_o` (rule R33). -/
structure Ports where
  dataOe : Bool
  dataO : Bool
  gateOe : Bool
  gateO : Bool
  deriving DecidableEq, Repr

/-- "The block's outputs are exactly the four pin registers" (rule R33). -/
def outputs (s : State) : Ports :=
  { dataOe := s.dataDir, dataO := s.dataOut, gateOe := s.gateDir, gateO := s.gateOut }

/-- The level the block puts on `DATA`; `none` while it is released, when the level is the environment's (rule R30). -/
def dataLine (s : State) : Option Bool := if s.dataDir then some s.dataOut else none

/-- The level the block puts on `GATE`; `none` while it is released (rule R31). -/
def gateLine (s : State) : Option Bool := if s.gateDir then some s.gateOut else none

end Sys2Proof.Machine
end

