-- ==== Sys2Proof/Machine/Controller.lean ====
section
/-! DEFINITION. The bit-injection state machine: the symbols, the strings, the controller states and `US_TICK`
(spec/43_injection_controller.md, spec/44_bit_encoding_table.md). -/

namespace Sys2Proof.Machine

/-! ## Symbols (rules R118, R119) -/

/-- `SYM.0` (rule R118). -/
def execSym0 (s : State) : Result := .next (driveDataLow { s with pu22Inject := false })

/-- `SYM.1` (rule R119): release in the older-drive variant, passthrough in the newer. -/
def execSym1 (s : State) : Result :=
  if s.pu22Mode then .next { s with dataDir := true, pu22Inject := true }
  else .next (releaseData s)

/-- "if b == 0 then SYM.0 else SYM.1" (rule R115). -/
def runSymbol (b : SymbolCode) (s : State) : Result :=
  if b.toNat = 0 then execSym0 s else execSym1 s

/-! ## Strings (rules R115, R130, R131) -/

/-- The bit period is loaded and the symbol counter advances (rule R115). -/
def loadBitPeriod (s : State) : State := { s with delayCnt := s.params.tBitUs - 1, sym := s.sym + 1 }

/-- Start bit number `sym` of a string (rule R115): the table read, the symbol, the delay. -/
def startBit (k : Nat) (s : State) : Result :=
  match bitAt k s.sym.toNat with
  | none => raiseContractViolation k s.sym.toNat
  | some b => andThen (runSymbol b s) (fun t => .next (loadBitPeriod t))

/-- `STR.SCEE`: what the block does with the data row, the start of its next bit (rules R115, R130; notes/assumptions/9.md). -/
def execStrScee (s : State) : Result := startBit 0 s
/-- `STR.SCEA`: the start of its next bit (rules R115, R130; notes/assumptions/9.md). -/
def execStrScea (s : State) : Result := startBit 1 s
/-- `STR.SCEI`: the start of its next bit (rules R115, R130; notes/assumptions/9.md). -/
def execStrScei (s : State) : Result := startBit 2 s

/-- The row of a string, performed. -/
def runRegion (r : Region) (s : State) : Result :=
  match r with
  | .scee => execStrScee s
  | .scea => execStrScea s
  | .scei => execStrScei s

/-! ## The `SEND` states (rules R115 to R117, R120) -/

/-- `fsm <- END` when the last string of the last round is over (rules R115, R117). -/
def finishInjection (s : State) : State := { s with sym := 0, fsm := fsmCode .endInjection }

/-- The next string's state and its bit 0, in this same tick (rule R115: "fall through"). -/
def beginString (r : Region) (s : State) : Result := runRegion r { s with sym := 0, fsm := Region.code r }

/-- Whether the string is the last of the injection: SCEI in round 1 (rule R117). -/
def isLastString (r : Region) (s : State) : Bool :=
  match r with
  | .scee => false
  | .scea => false
  | .scei => !(s.round == 0)

/-- What follows the pause of a string (rules R115, R117). -/
def afterPause (r : Region) (s : State) : Result :=
  match r with
  | .scee => beginString .scea s
  | .scea => beginString .scei s
  | .scei =>
    if s.round = 0 then beginString .scee { s with round := 1 }
    else .next (finishInjection s)

/-- Start the pause after the string (rule R120). -/
def startPause (s : State) : State := { s with delayCnt := s.params.tStringUs - 1, sym := 45 }

/-- What follows the last bit period: the pause, or with `PAUSE_AFTER_LAST` = false the end of the injection after the sixth string
(rules R115, R120; decision D16). -/
def afterBits (r : Region) (s : State) : State :=
  if isLastString r s && !s.params.pauseAfterLast then finishInjection s else startPause s

/-- A `SEND` state of string `r` (rule R115): count-down, end of pause, start of a bit, start of a pause. `sym` 46 to 63 is unreachable and
faults (rule R70, U3). -/
def send (r : Region) (s : State) : Result :=
  if s.delayCnt ≠ 0 then .next { s with delayCnt := s.delayCnt - 1 }
  else if s.sym = 45 then afterPause r s
  else if s.sym.toNat < Config.stringBits then runRegion r s
  else if s.sym = 44 then .next (afterBits r s)
  else .fault (.symOutOfRange s.sym)

/-- `SEND_E` (rule R115). -/
def execSendE (s : State) : Result := send .scee s
/-- `SEND_A` (rule R115). -/
def execSendA (s : State) : Result := send .scea s
/-- `SEND_I` (rule R115). -/
def execSendI (s : State) : Result := send .scei s

/-! ## The other states (rules R112 to R114, R121, R70) -/

/-- `WAIT_MODE` (rule R112). -/
def execWaitMode (s : State) : Result :=
  if s.modeDetected then .next { s with fsm := fsmCode .waitReq } else .next s

/-- `WAIT_REQ` (rule R113). -/
def execWaitReq (s : State) : Result :=
  if s.reqPending then .next { s with reqPending := false, fsm := fsmCode .start } else .next s

/-- `START` (rule R114). -/
def execStart (s : State) : Result :=
  .next { takeGate (driveDataLow s) with
    injectionRunning := true, round := 0, sym := 0, delayCnt := 0, fsm := fsmCode .sendE }

/-- `END` (rule R121). -/
def execEndInjection (s : State) : Result :=
  .next { releaseGate (releaseData s) with injectionRunning := false, fsm := fsmCode .waitReq }

/-- The reserved state code 7: no controller step; the controller is stuck, and the model flags the state as a fault
(rules R70, R142, U2; notes/assumptions/8.md). -/
def execFsmReserved7 (s : State) : Result := .next (report .reservedControllerState s)

/-! ## The tick (rules R110, R111) -/

/-- `CONTROLLER_STEP`'s case on the state code (rule R110). -/
def runFsmRow (r : FsmRow) (s : State) : Result :=
  match r with
  | .waitMode => execWaitMode s
  | .waitReq => execWaitReq s
  | .start => execStart s
  | .sendE => execSendE s
  | .sendA => execSendA s
  | .sendI => execSendI s
  | .endInjection => execEndInjection s
  | .reserved7 => execFsmReserved7 s

/-- `CONTROLLER_STEP` (rule R110). -/
def controllerStep (s : State) : Result := runFsmRow (fsmRow s.fsm) s

/-- With `FINALIZE_ON` = `tick`, the default, the tick finalises the mode (rule R104); with `edge` it does not (decision D12). -/
def finalizeAtTick (s : State) : State :=
  match s.params.finalizeOn with
  | .tick => finalizeCheck s
  | .edge => s

/-- `US_TICK` (rule R110): time base, finalisation, one controller step. -/
def execUsTick (s : State) : Result := controllerStep (finalizeAtTick (timebase s))

end Sys2Proof.Machine
end

