-- ==== Sys2Proof/Machine/Detector.lean ====
section
/-! DEFINITION. The noise-tolerant pattern detector (spec/41_pattern_detector.md): the packet classes, one meaning per row of rule R66,
and `CLASSIFY`. -/

namespace Sys2Proof.Machine

/-- `hyst <- hyst + 1`, 4 bits; "`hyst` is at most 13 before" (rules R91, R96). 14 and 15 are unreachable and fault (U3). -/
def hystUp (s : State) : Result :=
  if Config.hystTrigger ≤ s.hyst.toNat then .fault (.hystOutOfRange s.hyst)
  else .next { s with hyst := s.hyst + 1 }

/-- `if hyst > 0 then hyst <- hyst - 1` (rule R93). 14 and 15 are unreachable and fault (U3). -/
def hystDown (s : State) : Result :=
  if Config.hystTrigger ≤ s.hyst.toNat then .fault (.hystOutOfRange s.hyst)
  else if 0 < s.hyst.toNat then .next { s with hyst := s.hyst - 1 }
  else .next s

/-- `PKT.PRIMARY.A0` (rule R91). -/
def execPktPrimaryA0 (_p : PacketWord) (s : State) : Result := hystUp s
/-- `PKT.PRIMARY.A1` (rule R91). -/
def execPktPrimaryA1 (_p : PacketWord) (s : State) : Result := hystUp s
/-- `PKT.PRIMARY.A2` (rule R91). -/
def execPktPrimaryA2 (_p : PacketWord) (s : State) : Result := hystUp s
/-- `PKT.PRIMARY.01.LO01` (rule R91). -/
def execPktPrimary01Lo01 (_p : PacketWord) (s : State) : Result := hystUp s
/-- `PKT.PRIMARY.01.LO2` (rule R91). -/
def execPktPrimary01Lo2 (_p : PacketWord) (s : State) : Result := hystUp s
/-- `PKT.PRIMARY.01.HI98` (rule R91). -/
def execPktPrimary01Hi98 (_p : PacketWord) (s : State) : Result := hystUp s
/-- `PKT.PRIMARY.01.HIA0` (rule R91). -/
def execPktPrimary01HiA0 (_p : PacketWord) (s : State) : Result := hystUp s
/-- `PKT.PRIMARY.01.HIC0` (rule R91). -/
def execPktPrimary01HiC0 (_p : PacketWord) (s : State) : Result := hystUp s
/-- `PKT.SECONDARY.FLAG` (rule R92). -/
def execPktSecondaryFlag (_p : PacketWord) (s : State) : Result := hystUp s
/-- `PKT.SECONDARY.01` (rule R92). -/
def execPktSecondary01 (_p : PacketWord) (s : State) : Result := hystUp s
/-- `PKT.OTHER` (rule R93). -/
def execPktOther (_p : PacketWord) (s : State) : Result := hystDown s

/-- The class a row of the packet table names, performed on the packet. -/
def runPktRow (r : PktRow) (p : PacketWord) (s : State) : Result :=
  match r with
  | .primaryA0 => execPktPrimaryA0 p s
  | .primaryA1 => execPktPrimaryA1 p s
  | .primaryA2 => execPktPrimaryA2 p s
  | .primary01Lo01 => execPktPrimary01Lo01 p s
  | .primary01Lo2 => execPktPrimary01Lo2 p s
  | .primary01Hi98 => execPktPrimary01Hi98 p s
  | .primary01HiA0 => execPktPrimary01HiA0 p s
  | .primary01HiC0 => execPktPrimary01HiC0 p s
  | .secondaryFlag => execPktSecondaryFlag p s
  | .secondary01 => execPktSecondary01 p s
  | .other => execPktOther p s

/-- The row of the packet in the buffer (rules R66, R90). -/
def bufferRow (s : State) : PktRow :=
  pktRow s.params.grouping (decide (0 < s.hyst.toNat)) (packetWord s.pkt)

/-- `CLASSIFY`: the class of the packet in the buffer, then `THRESHOLD` (rule R90). -/
def classify (s : State) : Result :=
  andThen (runPktRow (bufferRow s) (packetWord s.pkt) s) (fun t => .next (threshold t))

end Sys2Proof.Machine
end

