-- ==== Sys2Proof/Machine/ModeDetector.lean ====
section
/-! DEFINITION. The drive-generation mode classifier and passthrough relay: `GATE_EDGE` (spec/42_mode_detector.md). -/

namespace Sys2Proof.Machine

/-- `COUNT` (rule R101): one observation, saturating. -/
def count (l : Bool) (s : State) : State :=
  if l then { s with highEdges := satInc s.params.edgeCntWidth s.highEdges }
  else { s with lowEdges := satInc s.params.edgeCntWidth s.lowEdges }

/-- `MIRROR` (rule R102). -/
def mirror (l : Bool) (s : State) : State := { s with dataOut := l }

/-- With `FINALIZE_ON` = `edge` the mode is finalised at an edge, before the edge is counted (decision D12); with `tick`, the default,
an edge finalises nothing. -/
def finalizeAtEdge (s : State) : State :=
  match s.params.finalizeOn with
  | .tick => s
  | .edge => finalizeCheck s

/-- The three cases of an edge: count, mirror, nothing (rules R100, R103). -/
def edgeAction (l : Bool) (s : State) : State :=
  if s.modeDetected then (if s.pu22Inject then mirror l s else s) else count l s

/-- `GATE_EDGE l` (rule R100). -/
def execGateEdge (l : Bool) (s : State) : Result := .next (edgeAction l (finalizeAtEdge s))

end Sys2Proof.Machine
end

