-- ==== Sys2Proof/Machine/Reset.lean ====
section
/-! DEFINITION. `RESET` and `NOP` (rules R63, R160). -/

namespace Sys2Proof.Machine

/-- Every register at its reset value; the parameters and the input side are no registers and stay (rules R160, R34). -/
def resetRegisters (s : State) : State :=
  { s with
    usCount := 0, lastTs := 0
    bitPos := 0, byteAcc := 0, pktPos := 0, pkt := []
    hyst := 0, reqPending := false
    highEdges := 0, lowEdges := 0
    modeDetected := false, pu22Mode := false, pu22Inject := false, injectionRunning := false
    fsm := 0, round := 0, sym := 0, delayCnt := 0
    dataDir := false, dataOut := false, gateDir := false, gateOut := false
    reported := none }

/-- `RESET` (rule R160): legal in every state. -/
def execReset (s : State) : Result := .next (resetRegisters s)

/-- `NOP`: "changes no state and no output" (rule R63). -/
def execNop (s : State) : Result := .next s

end Sys2Proof.Machine
end

