-- ==== Sys2Proof/Machine/Sampler.lean ====
section
/-! DEFINITION. The subchannel bit sampler and packet assembler: `SQCK_RISE` with its four steps (spec/40_subchannel_sampler.md). -/

namespace Sys2Proof.Machine

/-- The three clears of a resynchronisation (rule R81). -/
def resync (s : State) : State := { s with bitPos := 0, byteAcc := 0, pktPos := 0 }

/-- `RESYNC_CHECK` (rule R81): `lastTs` is written always. -/
def resyncCheck (s : State) : State :=
  if gapExceeded s then { resync s with lastTs := s.usCount } else { s with lastTs := s.usCount }

/-- `SHIFT_BIT` (rule R82): `bitPos` advances modulo 8 in its three bits. -/
def shiftBit (d : Bool) (s : State) : State :=
  { s with byteAcc := s.byteAcc ||| placeSample d s.bitPos, bitPos := s.bitPos + 1 }

/-- `STORE_BYTE` (rule R83). -/
def storeByte (s : State) : Result :=
  andThen (pktWrite s.pktPos.toNat s.byteAcc s)
    (fun t => .next { t with byteAcc := 0, pktPos := nextPktPos t.pktPos })

/-- Hand over: "the store wrapped: a packet is complete" (rules R80, R84). -/
def packetDone (s : State) : Result := if s.pktPos = 0 then classify s else .next s

/-- `SQCK_RISE d` (rule R80). -/
def execSqckRise (d : Bool) (s : State) : Result :=
  let t := shiftBit d (resyncCheck s)
  if t.bitPos = 0 then andThen (storeByte t) packetDone else .next t

end Sys2Proof.Machine
end

