-- ==== Sys2Proof/Machine/Dispatch.lean ====
section
/-! DEFINITION. One arm per operation. -/

namespace Sys2Proof.Machine

def exec (i : Instr) (s : State) : Host.Outcome State Fault Refusal :=
  match i with
  | .reset => Sys2Proof.Machine.execReset s
  | .nop => Sys2Proof.Machine.execNop s
  | .sqckRise d => Sys2Proof.Machine.execSqckRise d s
  | .gateEdge l => Sys2Proof.Machine.execGateEdge l s
  | .usTick => Sys2Proof.Machine.execUsTick s
  | .pktPrimaryA0 p => Sys2Proof.Machine.execPktPrimaryA0 p s
  | .pktPrimaryA1 p => Sys2Proof.Machine.execPktPrimaryA1 p s
  | .pktPrimaryA2 p => Sys2Proof.Machine.execPktPrimaryA2 p s
  | .pktPrimary01Lo01 p => Sys2Proof.Machine.execPktPrimary01Lo01 p s
  | .pktPrimary01Lo2 p => Sys2Proof.Machine.execPktPrimary01Lo2 p s
  | .pktPrimary01Hi98 p => Sys2Proof.Machine.execPktPrimary01Hi98 p s
  | .pktPrimary01HiA0 p => Sys2Proof.Machine.execPktPrimary01HiA0 p s
  | .pktPrimary01HiC0 p => Sys2Proof.Machine.execPktPrimary01HiC0 p s
  | .pktSecondaryFlag p => Sys2Proof.Machine.execPktSecondaryFlag p s
  | .pktSecondary01 p => Sys2Proof.Machine.execPktSecondary01 p s
  | .pktOther p => Sys2Proof.Machine.execPktOther p s
  | .waitMode => Sys2Proof.Machine.execWaitMode s
  | .waitReq => Sys2Proof.Machine.execWaitReq s
  | .start => Sys2Proof.Machine.execStart s
  | .sendE => Sys2Proof.Machine.execSendE s
  | .sendA => Sys2Proof.Machine.execSendA s
  | .sendI => Sys2Proof.Machine.execSendI s
  | .endInjection => Sys2Proof.Machine.execEndInjection s
  | .fsmReserved7 => Sys2Proof.Machine.execFsmReserved7 s
  | .sym0 => Sys2Proof.Machine.execSym0 s
  | .sym1 => Sys2Proof.Machine.execSym1 s
  | .strScee => Sys2Proof.Machine.execStrScee s
  | .strScea => Sys2Proof.Machine.execStrScea s
  | .strScei => Sys2Proof.Machine.execStrScei s

end Sys2Proof.Machine
end

