-- ==== Sys2Proof/Machine/Cycle.lean ====
section
/-! DEFINITION. One clock cycle: taking the input vector, performing its operations in order (rules R46, R48, R62), and placing a word of
the opcode table so that the next cycle performs it. -/

namespace Sys2Proof.Machine

/-- The input vector of the next cycle: the head of the trace, or a free value once the trace has run out (notes/assumptions/2.md). -/
def nextVector (s : State) : InputVector :=
  match s.stimulus with
  | v :: _ => v
  | [] => Config.freeInput s.freeIdx

/-- The state after its next input vector was taken. -/
def takeVector (s : State) : State :=
  match s.stimulus with
  | _ :: vs => { s with stimulus := vs }
  | [] => { s with freeIdx := s.freeIdx + 1 }

/-- Perform operations one after another, each on the state the one before it left (rule R48). -/
def runOps : List Instr → State → Result
  | [], s => .next s
  | i :: is, s => andThen (exec i s) (runOps is)

/-- Perform the operations an input vector selects (rules R61, R62). -/
def runVector (v : InputVector) (s : State) : Result := runOps (decodeIV6 s.params.order v) s

/-- One clock cycle. -/
def cycle (s : State) : Result := runVector (nextVector s) (takeVector s)

/-! ## Placing a word (notes/assumptions/17.md) -/

/-- The vector is the next cycle's. -/
def placeVector (v : InputVector) (s : State) : State := { s with stimulus := v :: s.stimulus }

/-- The assembler stands before the last bit of the packet `p`, the counter is positive if the packet's row asks for it, and the next
cycle delivers that bit: it completes and classifies `p`. -/
def placePacket (p : PacketWord) (s : State) : State :=
  placeVector (if p.getLsbD 95 then 0x03 else 0x02)
    { s with
      lastTs := s.usCount
      bitPos := 7
      byteAcc := pktByte p 11 &&& 0x7F
      pktPos := 11
      pkt := storeBytesFrom 0 (packetBytes 11 p) s.pkt
      hyst := if s.hyst = 0 ∧ (pktRow s.params.grouping true p).cls = .secondary then 1 else s.hyst }

/-- The controller stands in the state with this code, and the next cycle is a tick. -/
def placeFsm (c : FsmCode) (s : State) : State := placeVector 0x10 { s with fsm := c }

/-- The controller is about to start bit number `i` of a string, and the next cycle is a tick. -/
def placeStringBit (r : Region) (i : BitVec 6) (s : State) : State :=
  placeVector 0x10 { s with fsm := Region.code r, sym := i, delayCnt := 0 }

/-- The controller is about to start a bit with this symbol: bit 0 of SCEE is 1 and bit 1 is 0 (rule R130). -/
def placeSymbol (b : SymbolCode) (s : State) : State :=
  placeStringBit .scee (if b.toNat = 0 then 1 else 0) s

/-- Place a word of the opcode table, numbered as the table numbers it. A word the decoder refuses changes nothing. -/
def placeTableWord (nbits w : Nat) (s : State) : State :=
  match tableFormat nbits with
  | none => s
  | some .iv6 => if w % 2 ^ nbits < 64 then placeVector (BitVec.ofNat 6 (w % 2 ^ nbits)) s else s
  | some .fsm3 => placeFsm (BitVec.ofNat 3 w) s
  | some .sym1 => placeSymbol (BitVec.ofNat 1 w) s
  | some .pkt96 => placePacket (BitVec.ofNat 96 (w % 2 ^ nbits)) s
  | some .str44 =>
    match stringOf (BitVec.ofNat 44 w) with
    | some r => placeStringBit r 0 s
    | none => s

end Sys2Proof.Machine
end

