-- ==== Sys2Proof/Machine/Step.lean ====
section
/-! DEFINITION. One step is one clock cycle; parameters the spec does not support are refused (rule R175). -/

namespace Sys2Proof.Machine

/-- One clock cycle of the block. -/
def step (s : State) : Host.Outcome State Fault Refusal :=
  if s.params.wf then cycle s else .refused .unsupportedParameters

/-- The state in which the very next step performs the given word of the opcode table. -/
def State.withFetchWord (s : State) (nbits w : Nat) : State := placeTableWord nbits w s

end Sys2Proof.Machine
end

