-- ==== Sys2Proof/Machine/Stimulus.lean ====
section
/-! DEFINITION. The stimulus assembly of rule R73: lines to input vectors, programs to traces, loading a trace, and performing several
ticks or samples in a row. -/

namespace Sys2Proof.Machine

/-- The vector of a line: "`a + b`: bitwise OR of the vectors" (rule R73). -/
def lineVector : StimLine → InputVector
  | .rst => 0x20
  | .nop => 0x00
  | .sqck d => BitVec.ofNat 6 (0x02 + d.toNat)
  | .gate l => BitVec.ofNat 6 (0x08 + 4 * l.toNat)
  | .tick => 0x10
  | .plus a b => lineVector a ||| lineVector b

/-- The sample of the line's `SQCK d`, if it has one. -/
def lineSample : StimLine → Option Bool
  | .sqck d => some d
  | .plus a b => (lineSample a).or (lineSample b)
  | .rst | .nop | .gate _ | .tick => none

/-- The level of the line's `GATE l`, if it has one. -/
def lineLevel : StimLine → Option Bool
  | .gate l => some l
  | .plus a b => (lineLevel a).or (lineLevel b)
  | .rst | .nop | .sqck _ | .tick => none

/-- Whether the line has a `TICK`. -/
def lineTicks : StimLine → Bool
  | .tick => true
  | .plus a b => lineTicks a || lineTicks b
  | .rst | .nop | .sqck _ | .gate _ => false

/-- The operations a line of events means, in the default order (rules R62, R73). -/
def lineOps (l : StimLine) : List Instr :=
  ((lineSample l).map Instr.sqckRise).toList ++ ((lineLevel l).map Instr.gateEdge).toList
    ++ (if lineTicks l then [.usTick] else [])

/-- The samples `d_n`, `n` = 0 to 95, of a packet: `d_n = P[n]` (rules R41, R73). -/
def packetSamples (p : PacketWord) : List Bool := (List.range 96).map p.getLsbD

/-- The vector of the line `SQCK d`. -/
def sampleVector (d : Bool) : InputVector := lineVector (.sqck d)

/-- The trace of a stimulus program, one vector per cycle (rule R73). -/
def assemble : StimProg → List InputVector
  | .line l => [lineVector l]
  | .ticks n => List.replicate n (lineVector .tick)
  | .pkt p => (packetSamples p).map sampleVector
  | .pktg g p => ((packetSamples p).map (fun d => List.replicate g (lineVector .tick) ++ [sampleVector d])).flatten
  | .gates n => (List.replicate n [lineVector (.gate false), lineVector (.gate true)]).flatten
  | .rep n body => (List.replicate n (assemble body)).flatten
  | .seq a b => assemble a ++ assemble b

/-- Load a trace: the program of the coming cycles (notes/assumptions/1.md). -/
def loadTrace (vs : List InputVector) (s : State) : State := { s with stimulus := vs }

/-- `n` ticks in a row. -/
def ticks : Nat → State → Result
  | 0, s => .next s
  | n + 1, s => andThen (exec .usTick s) (ticks n)

/-- Samples in a row, without ticks between them. -/
def samples (ds : List Bool) (s : State) : Result := runOps (ds.map .sqckRise) s

end Sys2Proof.Machine
end

