-- ==== Sys2Proof/Safety.lean ====
section
/-! DEFINITION. The invariant of the block: the items of rule R38 (spec/10_state.md), the ranges of the registers, and what the controller's
position says of the pins and flags. -/

namespace Sys2Proof.Machine

/-- The string the controller is sending, if it is in a `SEND` state (rule R21). -/
def sendRegion (s : State) : Option Region :=
  match fsmRow s.fsm with
  | .sendE => some .scee
  | .sendA => some .scea
  | .sendI => some .scei
  | .waitMode | .waitReq | .start | .endInjection | .reserved7 => none

/-- The symbol last started in a `SEND` state is a 1: bit number `sym - 1` of the string (rules R23, R115). Before the first symbol, and once
the pause has started, it is not. -/
def lastSymbolIsOne (r : Region) (sym : Nat) : Bool := decide (1 ≤ sym) && bitAt r.index (sym - 1) == some 1

/-- Ranges: items 1 and 2 of rule R38, and every register inside its width. -/
structure RangeInv (s : State) : Prop where
  params_wf : s.params.wf = true
  usCount_lt : s.usCount < 2 ^ s.params.tsw
  lastTs_lt : s.lastTs < 2 ^ s.params.tsw
  pktPos_lt : s.pktPos.toNat < Config.pktBytes
  pkt_wf : Memory.wf s.pkt = true
  byteAcc_lt : s.byteAcc.toNat < 2 ^ s.bitPos.toNat
  hyst_lt : s.hyst.toNat < Config.hystTrigger
  highEdges_lt : s.highEdges < 2 ^ s.params.edgeCntWidth
  lowEdges_lt : s.lowEdges < 2 ^ s.params.edgeCntWidth
  sym_le : s.sym.toNat ≤ 45
  delayCnt_le : s.delayCnt ≤ max s.params.tBitUs s.params.tStringUs - 1
  fsm_legal : s.fsm ≠ 7
  nothing_reported : s.reported = none

/-- Mode: item 3 of rule R38. With `FINALIZE_ON` = `edge` the controller leaves `WAIT_MODE` at the tick after the finalisation. -/
structure ModeInv (s : State) : Prop where
  undetected_waits : s.modeDetected = false → s.fsm = 0
  waits_undetected : s.params.finalizeOn = .tick → s.fsm = 0 → s.modeDetected = false
  undetected_older : s.modeDetected = false → s.pu22Mode = false

/-- Injection: items 4 to 6 and 8 of rule R38, with what the last symbol says of the pins. -/
structure InjectInv (s : State) : Prop where
  running_iff : s.injectionRunning = true ↔ (s.fsm = 3 ∨ s.fsm = 4 ∨ s.fsm = 5 ∨ s.fsm = 6)
  gateDir_eq : s.gateDir = (s.injectionRunning && !s.pu22Mode)
  gateOut_low : s.gateOut = false
  dataOut_mirrors : s.dataOut = true → s.pu22Inject = true
  idle_released : s.injectionRunning = false → s.dataDir = false ∧ s.pu22Inject = false
  sending_inject : ∀ r, sendRegion s = some r →
    s.pu22Inject = (s.pu22Mode && lastSymbolIsOne r s.sym.toNat)
  sending_dataDir : ∀ r, sendRegion s = some r →
    s.dataDir = (s.pu22Mode || !lastSymbolIsOne r s.sym.toNat)
  ending_low : s.fsm = 6 → s.dataDir = true ∧ s.pu22Inject = false

/-- The invariant of the block. -/
structure BlockInv (s : State) : Prop where
  ranges : RangeInv s
  mode : ModeInv s
  inject : InjectInv s

end Sys2Proof.Machine
end

