-- ==== Sys2Proof/WellFormed.lean ====
section
/-! DEFINITION. When an operation is well formed: the packet a class carries satisfies the byte tests of its row (rules R65, R66, R91,
R92, R93), written from the bytes and not from the masks; and a stimulus line combines events as rule R73 allows. -/

namespace Sys2Proof

/-- `b3` lies in the aligned block `lo .. hi` of the row (rule R66). -/
def byte3In (lo hi : Nat) (p : PacketWord) : Bool :=
  decide (lo ≤ (pktByte p 3).toNat) && decide ((pktByte p 3).toNat ≤ hi)

/-- Flag byte and guard bytes, which every row of the guarded grouping asks for and a `01` row of the loose grouping does not
(decision D7). -/
def guardedPrefix (g : Grouping) (p : PacketWord) : Bool :=
  match g with
  | .guarded => flagByte (pktByte p 0) && guardBytes p
  | .loose => true

/-- The byte tests of a row for `b2 == 0x01`. -/
def is01Row (g : Grouping) (lo hi : Nat) (p : PacketWord) : Bool :=
  guardedPrefix g p && pktByte p 2 == 0x01 && byte3In lo hi p

/-- The byte tests of a row for `b2` in 0xA0, 0xA1, 0xA2. -/
def isARow (b2 : Byte) (p : PacketWord) : Bool :=
  flagByte (pktByte p 0) && guardBytes p && pktByte p 2 == b2

/-- An operation is well formed in a decoding context: a packet class carries a packet of that class. -/
def Instr.wf (c : DecodeCtx) : Instr → Bool
  | .reset => true
  | .nop => true
  | .sqckRise _ => true
  | .gateEdge _ => true
  | .usTick => true
  | .pktPrimaryA0 p => isARow 0xA0 p
  | .pktPrimaryA1 p => isARow 0xA1 p
  | .pktPrimaryA2 p => isARow 0xA2 p
  | .pktPrimary01Lo01 p => is01Row c.grouping 0x00 0x01 p
  | .pktPrimary01Lo2 p => is01Row c.grouping 0x02 0x02 p
  | .pktPrimary01Hi98 p => is01Row c.grouping 0x98 0x9F p
  | .pktPrimary01HiA0 p => is01Row c.grouping 0xA0 0xBF p
  | .pktPrimary01HiC0 p => is01Row c.grouping 0xC0 0xFF p
  | .pktSecondaryFlag p =>
    c.hystPositive && !primaryMatch c.grouping p && flagByte (pktByte p 0) && guardBytes p
  | .pktSecondary01 p =>
    c.hystPositive && !primaryMatch c.grouping p && pktByte p 0 == 0x01 && guardBytes p
  | .pktOther p => !primaryMatch c.grouping p && !secondaryMatch c.hystPositive p
  | .waitMode => true
  | .waitReq => true
  | .start => true
  | .sendE => true
  | .sendA => true
  | .sendI => true
  | .endInjection => true
  | .fsmReserved7 => true
  | .sym0 => true
  | .sym1 => true
  | .strScee => true
  | .strScea => true
  | .strScei => true

/-- The line is, or combines, events only: `RST` and `NOP` "may not be combined" (rule R73). -/
def StimLine.eventsOnly : StimLine → Bool
  | .rst => false
  | .nop => false
  | .sqck _ => true
  | .gate _ => true
  | .tick => true
  | .plus a b => a.eventsOnly && b.eventsOnly

/-- How often `SQCK` occurs in the line. -/
def StimLine.sqckCount : StimLine → Nat
  | .sqck _ => 1
  | .plus a b => a.sqckCount + b.sqckCount
  | .rst | .nop | .gate _ | .tick => 0

/-- How often `GATE` occurs in the line. -/
def StimLine.gateCount : StimLine → Nat
  | .gate _ => 1
  | .plus a b => a.gateCount + b.gateCount
  | .rst | .nop | .sqck _ | .tick => 0

/-- How often `TICK` occurs in the line. -/
def StimLine.tickCount : StimLine → Nat
  | .tick => 1
  | .plus a b => a.tickCount + b.tickCount
  | .rst | .nop | .sqck _ | .gate _ => 0

/-- A stimulus line is well formed: "each of `SQCK`, `GATE`, `TICK` at most once; `RST` and `NOP` may not be combined" (rule R73). -/
def StimLine.wf : StimLine → Bool
  | .rst => true
  | .nop => true
  | .sqck _ => true
  | .gate _ => true
  | .tick => true
  | .plus a b =>
    a.eventsOnly && b.eventsOnly && decide (a.sqckCount + b.sqckCount ≤ 1) && decide (a.gateCount + b.gateCount ≤ 1)
      && decide (a.tickCount + b.tickCount ≤ 1)

/-- Every line of a stimulus program is well formed. -/
def StimProg.wf : StimProg → Bool
  | .line l => l.wf
  | .ticks _ => true
  | .pkt _ => true
  | .pktg _ _ => true
  | .gates _ => true
  | .rep _ body => body.wf
  | .seq a b => a.wf && b.wf

end Sys2Proof
end

