-- ==== Sys2Proof/Certificates/Slice0/Obligations.lean ====
section
/-! DEFINITION. The statements about the model, from the numbered rules of spec/. -/

open Sys2Proof Sys2Proof.Machine

/-! ## Vocabulary of the statements -/

/-- The gap rule R81 speaks of, as an integer: `(usCount - lastTs) mod 2^TSW`. -/
def Sys2Proof.Claims.gapUs (s : State) : Int := ((s.usCount : Int) - (s.lastTs : Int)) % ((2 ^ s.params.tsw : Nat) : Int)

/-- The bits of the three strings as rule R130 prints them, bit 0 first. -/
def Sys2Proof.Claims.printedBits : Region → List (BitVec 1)
  | .scee => [1,0,0,1,1,0,1,0,1,0,0, 1,0,0,1,1,1,1,0,1,0,0, 1,0,1,0,1,1,1,0,1,0,0, 1,0,1,0,1,1,1,0,1,0,0]
  | .scea => [1,0,0,1,1,0,1,0,1,0,0, 1,0,0,1,1,1,1,0,1,0,0, 1,0,1,0,1,1,1,0,1,0,0, 1,0,1,1,1,1,1,0,1,0,0]
  | .scei => [1,0,0,1,1,0,1,0,1,0,0, 1,0,0,1,1,1,1,0,1,0,0, 1,0,1,0,1,1,1,0,1,0,0, 1,0,1,1,0,1,1,0,1,0,0]

/-- String number `k` of an injection, `k` = 0 to 5 (rule R122: `k = 3 * round + (fsm - 3)`). -/
def Sys2Proof.Claims.stringNo (k : Nat) : Region :=
  if k % 3 = 0 then .scee else if k % 3 = 1 then .scea else .scei

/-- What a symbol does (rules R118, R119): a 0 drives the line low and stops the relay; a 1 releases the line in the older-drive variant and
starts the relay in the newer. -/
def Sys2Proof.Claims.symbolEffect (b : BitVec 1) (s : State) : State :=
  if b = 0 then { s with pu22Inject := false, dataDir := true, dataOut := false }
  else if s.pu22Mode then { s with dataDir := true, pu22Inject := true }
  else { s with dataDir := false }

/-- The counter after a packet class (rules R91 to R93). -/
def Sys2Proof.Claims.hystAfter (c : PktClass) (h : BitVec 4) : BitVec 4 :=
  match c with
  | .primary => h + 1
  | .secondary => h + 1
  | .other => if h = 0 then 0 else h - 1

/-- The assembler stands at the start of a packet: at position 0 with no gap, or anywhere with a gap that resynchronises (rule R86). -/
def Sys2Proof.Claims.AtPacketStart (s : State) : Prop :=
  (s.bitPos = 0 ∧ s.byteAcc = 0 ∧ s.pktPos = 0) ∨ 180 < Sys2Proof.Claims.gapUs s

/-- The operations that a cycle without `rst` performs (rules R61, R62). -/
def Sys2Proof.Claims.isEvent : Instr → Bool
  | .nop | .sqckRise _ | .gateEdge _ | .usTick => true
  | _ => false

/-- The sample an operation delivers, if it is `SQCK_RISE`. -/
def Sys2Proof.Claims.sampleOf : Instr → Option Bool
  | .sqckRise d => some d
  | _ => none

/-- Performed one after another, none of the operations resynchronises (rules R81, R86): each sample among them finds a gap of at most
180 µs. -/
def Sys2Proof.Claims.noResync : List Instr → State → Bool
  | [], _ => true
  | i :: is, s =>
    (!(sampleOf i).isSome || decide (gapUs s ≤ 180)) &&
      match exec i s with
      | .next t => Sys2Proof.Claims.noResync is t
      | .fault _ => true
      | .refused _ => true

/-- A packet with ticks: `n` of them before it and `g` before each of its samples, as `TICK n` and `PKTG g` of rule R73 deliver them. -/
def Sys2Proof.Claims.packetWithTicks (n g : Nat) (p : PacketWord) : List Instr :=
  List.replicate n .usTick ++ ((packetSamples p).map fun d => List.replicate g .usTick ++ [.sqckRise d]).flatten

/-- The eleven rows of the packet table, as operations (rule R66). -/
def Sys2Proof.Claims.isPacketClass : Instr → Bool
  | .pktPrimaryA0 _ | .pktPrimaryA1 _ | .pktPrimaryA2 _ | .pktPrimary01Lo01 _ | .pktPrimary01Lo2 _ => true
  | .pktPrimary01Hi98 _ | .pktPrimary01HiA0 _ | .pktPrimary01HiC0 _ => true
  | .pktSecondaryFlag _ | .pktSecondary01 _ | .pktOther _ => true
  | _ => false

open Sys2Proof.Claims

/-! ## The step -/

/-- A step performs the operation that the decoder reads from the next input vector (rules R46, R48, R61), with the vector taken off the
trace and nothing else around it; and several coincident operations one after another. -/
def Obligations.StepRunsTheDecodedOperation : Prop :=
  ∀ (s : State) (v : InputVector) (vs : List InputVector), s.params.wf = true → s.stimulus = v :: vs →
    (∀ i : Instr, decode (decodeCtx s) .iv6 [v.setWidth 8] = .ok [i] → i.wf (decodeCtx s) = true →
      step s = exec i { s with stimulus := vs }) ∧
    (∀ ops : List Instr, decode (decodeCtx s) .iv6 [v.setWidth 8] = .ok ops →
      step s = runOps ops { s with stimulus := vs })

/-- Beyond the given trace the environment's vector is a free value: whatever it is, the step performs its operations (the model's choice,
notes/assumptions/2.md). The statement holds for every value of `freeIdx` and of the free vector. -/
def Obligations.StepBeyondTheTraceRunsAFreeVector : Prop :=
  ∀ s : State, s.params.wf = true → s.stimulus = [] →
    step s = runOps (decodeIV6 s.params.order (Config.freeInput s.freeIdx)) { s with freeIdx := s.freeIdx + 1 }

/-- "The value 0 is not supported and a model refuses it" (rule R175): the parameters that break a constraint, and no others, are refused.
That it is the step that refuses them, and no operation, is the model's choice (notes/assumptions/15.md). -/
def Obligations.OnlyUnsupportedParametersAreRefused : Prop :=
  (∀ (s : State) (w : Refusal), step s = .refused w ↔ s.params.wf = false ∧ w = .unsupportedParameters) ∧
  (∀ (i : Instr) (s : State) (w : Refusal), exec i s ≠ .refused w) ∧
  (∀ p : Params, p.wf = true ↔
    1 ≤ p.tBitUs ∧ 1 ≤ p.tStringUs ∧ max p.tBitUs p.tStringUs - 1 < 2 ^ p.delayWidth ∧
    1000000 < 2 ^ p.tsw ∧ 181 < 2 ^ p.tsw ∧ 101 < 2 ^ p.edgeCntWidth)

/-- Rule R62: `RESET` alone, else `SQCK_RISE`, `GATE_EDGE`, `US_TICK`, each whose strobe is 1, each seeing the state the one before left. -/
def Obligations.CyclePerformsResetAloneElseInOrder : Prop :=
  ∀ (s : State) (v : InputVector) (vs : List InputVector), s.params.wf = true → s.stimulus = v :: vs →
    (v.getLsbD 5 = true → step s = exec .reset { s with stimulus := vs }) ∧
    (v.getLsbD 5 = false → s.params.order = .sgt →
      step s =
        andThen (if v.getLsbD 1 then exec (.sqckRise (v.getLsbD 0)) { s with stimulus := vs } else .next { s with stimulus := vs })
          fun a => andThen (if v.getLsbD 3 then exec (.gateEdge (v.getLsbD 2)) a else .next a)
            fun b => if v.getLsbD 4 then exec .usTick b else .next b)

/-- Every `COINCIDENT_ORDER` performs the same operations of a vector, in another order (decision D2, notes/assumptions/11.md). -/
def Obligations.EveryOrderPerformsTheSameOperations : Prop :=
  ∀ (o : CoincidentOrder) (v : InputVector), (decodeIV6 o v).Perm (decodeIV6 .sgt v) ∧ decodeIV6 o v ≠ []

/-- The bits a row does not test are ignored (rules R61, R70, U4). -/
def Obligations.UntestedInputBitsAreIgnored : Prop :=
  ∀ (o : CoincidentOrder) (v w : InputVector),
    (v.getLsbD 5 = true → decodeIV6 o v = [.reset]) ∧
    (v.getLsbD 5 = w.getLsbD 5 → v.getLsbD 4 = w.getLsbD 4 → v.getLsbD 3 = w.getLsbD 3 → v.getLsbD 1 = w.getLsbD 1 →
      (v.getLsbD 3 = true → v.getLsbD 2 = w.getLsbD 2) → (v.getLsbD 1 = true → v.getLsbD 0 = w.getLsbD 0) →
      decodeIV6 o v = decodeIV6 o w)

/-! ## Encodings -/

/-- Words written out from the spec's encodings decode to the operations they stand for (rules R61, R66, R67, R68, R130). -/
def Obligations.WordsOfTheSpecDecode : Prop :=
  decode tableCtx .iv6 [0x20] = .ok [.reset] ∧ decode tableCtx .iv6 [0x00] = .ok [.nop] ∧
  decode tableCtx .iv6 [0x03] = .ok [.sqckRise true] ∧ decode tableCtx .iv6 [0x0C] = .ok [.gateEdge true] ∧
  decode tableCtx .iv6 [0x10] = .ok [.usTick] ∧
  decode tableCtx .iv6 [0x1B] = .ok [.sqckRise true, .gateEdge false, .usTick] ∧
  decode tableCtx .pkt96 [0x41, 0x00, 0xA0, 0, 0, 0, 0, 0, 0, 0, 0, 0] = .ok [.pktPrimaryA0 0xA00041] ∧
  decode tableCtx .pkt96 [0x41, 0x00, 0x01, 0x99, 0, 0, 0, 0, 0, 0, 0, 0] = .ok [.pktPrimary01Hi98 0x99010041] ∧
  decode tableCtx .pkt96 [0x01, 0x00, 0x05, 0x20, 0, 0, 0, 0, 0, 0, 0, 0] = .ok [.pktSecondary01 0x20050001] ∧
  decode tableCtx .pkt96 [0, 0, 0, 0, 0, 0, 0, 0, 0, 0, 0, 0] = .ok [.pktOther 0] ∧
  decode tableCtx .fsm3 [0x02] = .ok [.start] ∧ decode tableCtx .fsm3 [0x07] = .ok [.fsmReserved7] ∧
  decode tableCtx .sym1 [0x01] = .ok [.sym1] ∧
  decode tableCtx .str44 [0x59, 0xC9, 0x4B, 0x5D, 0xFA, 0x02] = .ok [.strScea] ∧
  decode tableCtx .fsm3 [0x08] = .error (.unusedBitsSet .fsm3) ∧
  decode tableCtx .str44 [0, 0, 0, 0, 0, 0] = .error .notAnEncodedString

/-- Decode and encode agree for every well-formed operation, under either grouping and whatever `hyst` is. -/
def Obligations.DecodeOfEncodeIsTheOperation : Prop :=
  ∀ (c : DecodeCtx) (i : Instr), i.wf c = true → decode c i.format (encode i) = .ok [i]

/-- Whatever the decoder reads is well formed. -/
def Obligations.DecodedOperationsAreWellFormed : Prop :=
  ∀ (c : DecodeCtx) (f : Format) (bs : List Byte) (is : List Instr), decode c f bs = .ok is →
    is ≠ [] ∧ ∀ i ∈ is, i.wf c = true ∧ i.format = f

/-- The rows of the packet table give the class that the predicates of `CLASSIFY` give, for every packet (rules R66 and R90; under the loose
grouping, which is a parameter, notes/assumptions/12.md). -/
def Obligations.PacketRowsAgreeWithPredicates : Prop :=
  ∀ (g : Grouping) (h : Bool) (p : PacketWord), (pktRow g h p).cls = pktClass g h p

/-- A well-formed line of events assembles to a vector that performs exactly its events, in the default order (rules R62, R73). -/
def Obligations.AssembledLinesPerformTheirEvents : Prop :=
  ∀ l : StimLine, l.wf = true → l.eventsOnly = true → decodeIV6 .sgt (lineVector l) = lineOps l

/-! ## Reset and `NOP` -/

/-- `RESET` gives every register the value of the table of rule R37, in every state, in one cycle, whatever the other input bits are (rule
R160); the parameters (rule R34) and the model's own input side (notes/assumptions/1.md, 2.md), which are no registers, stay. -/
def Obligations.ResetGivesEveryRegisterItsValue : Prop :=
  (∀ s : State, ∃ t : State, exec .reset s = .next t ∧
    t.usCount = 0 ∧ t.lastTs = 0 ∧ t.bitPos = 0 ∧ t.byteAcc = 0 ∧ t.pktPos = 0 ∧ (∀ k : Nat, Memory.read t.pkt k = 0x00) ∧
    t.hyst = 0 ∧ t.reqPending = false ∧ t.highEdges = 0 ∧ t.lowEdges = 0 ∧ t.modeDetected = false ∧ t.pu22Mode = false ∧
    t.pu22Inject = false ∧ t.injectionRunning = false ∧ t.fsm = 0 ∧ t.round = 0 ∧ t.sym = 0 ∧ t.delayCnt = 0 ∧
    t.dataDir = false ∧ t.dataOut = false ∧ t.gateDir = false ∧ t.gateOut = false ∧
    t.params = s.params ∧ t.stimulus = s.stimulus ∧ t.freeIdx = s.freeIdx) ∧
  (∀ (s : State) (v : InputVector) (vs : List InputVector), s.params.wf = true → s.stimulus = v :: vs → v.getLsbD 5 = true →
    step s = exec .reset { s with stimulus := vs })

/-- The state after reset satisfies the invariant. -/
def Obligations.ResetStateSatisfiesInv : Prop := BlockInv State.reset

/-- Rule R63: a cycle with no strobe "changes no state and no output": only the vector is taken off the trace. -/
def Obligations.NopChangesNothing : Prop :=
  (∀ s : State, exec .nop s = .next s) ∧
  (∀ (s : State) (v : InputVector) (vs : List InputVector), s.params.wf = true → s.stimulus = v :: vs →
    v.getLsbD 5 = false → v.getLsbD 4 = false → v.getLsbD 3 = false → v.getLsbD 1 = false →
    step s = .next { s with stimulus := vs } ∧ outputs { s with stimulus := vs } = outputs s)

/-! ## The packet buffer -/

/-- The packet buffer: a byte written reads back, every other byte is unchanged, and equal buffers are equal data (rules R16, R40, R45). -/
def Obligations.PacketBufferReadAfterWrite : Prop :=
  ∀ (m : Memory) (k : Nat) (v : Byte), Memory.wf m = true → k < 12 →
    Memory.read (Memory.write m k v) k = v ∧ (∀ a : Nat, a ≠ k → Memory.read (Memory.write m k v) a = Memory.read m a) ∧
    Memory.wf (Memory.write m k v) = true ∧
    (∀ m' : Memory, Memory.wf m' = true → (∀ a : Nat, a < 12 → Memory.read m' a = Memory.read m a) → m' = m)

/-! ## `SQCK_RISE` -/

/-- A gap of more than 180 µs discards the byte and the packet in progress and keeps the sample as bit 0 of byte 0; nothing else changes
but `lastTs` (rules R81, R82). -/
def Obligations.GapResynchronises : Prop :=
  ∀ (s : State) (d : Bool), 180 < gapUs s →
    exec (.sqckRise d) s = .next { s with lastTs := s.usCount, bitPos := 1, byteAcc := if d then 1 else 0, pktPos := 0 }

/-- A gap of at most 180 µs discards nothing: the sample is ORed in at `bitPos` (rules R81, R82). -/
def Obligations.SampleIsOredAtTheBitPosition : Prop :=
  ∀ (s : State) (d : Bool), gapUs s ≤ 180 → s.bitPos ≠ 7 →
    exec (.sqckRise d) s = .next { s with
      lastTs := s.usCount
      byteAcc := if d then s.byteAcc ||| (1#8 <<< s.bitPos.toNat) else s.byteAcc
      bitPos := s.bitPos + 1 }

/-- The eighth sample stores the byte at `pktPos` and clears the accumulator (rule R83), while the packet is not complete. -/
def Obligations.EighthSampleStoresTheByte : Prop :=
  ∀ (s : State) (d : Bool), gapUs s ≤ 180 → s.bitPos = 7 → s.pktPos.toNat < 11 →
    exec (.sqckRise d) s = .next { s with
      lastTs := s.usCount
      bitPos := 0
      byteAcc := 0
      pktPos := s.pktPos + 1
      pkt := Memory.write s.pkt s.pktPos.toNat (if d then s.byteAcc ||| 0x80 else s.byteAcc) }

/-- The last sample of a packet stores byte 11 and classifies the packet in the same operation: the class moves `hyst`, at 14 it is clamped
to 11 and a request is enqueued unless an injection runs (rules R84, R90 to R95). -/
def Obligations.LastSampleClassifiesThePacket : Prop :=
  ∀ (s : State) (d : Bool) (m : Memory) (h : BitVec 4), gapUs s ≤ 180 → s.bitPos = 7 → s.pktPos = 11 → s.hyst.toNat ≤ 13 →
    m = Memory.write s.pkt 11 (if d then s.byteAcc ||| 0x80 else s.byteAcc) →
    h = hystAfter (pktClass s.params.grouping (decide (s.hyst ≠ 0)) (packetWord m)) s.hyst →
    exec (.sqckRise d) s = .next { s with
      lastTs := s.usCount
      bitPos := 0
      byteAcc := 0
      pktPos := 0
      pkt := m
      hyst := if h = 14 then 11 else h
      reqPending := s.reqPending || (decide (h = 14) && !s.injectionRunning) }

/-- `SQCK_RISE` stops only in states no run reaches (rule R70, U3): a byte completes at `pktPos` 12 to 15, or a packet is classified with
`hyst` 14 or 15. -/
def Obligations.SqckRiseStopsOnlyOnUnreachableValues : Prop :=
  (∀ (s : State) (d : Bool), gapUs s ≤ 180 → s.bitPos = 7 → 12 ≤ s.pktPos.toNat →
    exec (.sqckRise d) s = .fault (.packetIndexOutOfRange s.pktPos.toNat)) ∧
  (∀ (s : State) (d : Bool), gapUs s ≤ 180 → s.bitPos = 7 → s.pktPos = 11 → 14 ≤ s.hyst.toNat →
    exec (.sqckRise d) s = .fault (.hystOutOfRange s.hyst)) ∧
  (∀ (s : State) (d : Bool), s.pktPos.toNat ≤ 11 → s.hyst.toNat ≤ 13 → ∃ t : State, exec (.sqckRise d) s = .next t ∧ t.lastTs = s.usCount)

/-- What `SQCK_RISE` leaves unchanged (rules R45, R80, R150): every register but the decoder's and `reqPending`, and every byte of the
buffer but the one stored. -/
def Obligations.SqckRiseFrame : Prop :=
  ∀ (s t : State) (d : Bool), exec (.sqckRise d) s = .next t →
    t = { s with lastTs := t.lastTs, bitPos := t.bitPos, byteAcc := t.byteAcc, pktPos := t.pktPos, pkt := t.pkt, hyst := t.hyst,
                 reqPending := t.reqPending } ∧
    (s.reqPending = true → t.reqPending = true) ∧
    ((resyncCheck s).bitPos ≠ 7 → t.hyst = s.hyst ∧ t.reqPending = s.reqPending ∧ ∀ a : Nat, Memory.read t.pkt a = Memory.read s.pkt a) ∧
    (∀ a : Nat, (resyncCheck s).pktPos.toNat = a → ∀ b : Nat, b ≠ a → Memory.read t.pkt b = Memory.read s.pkt b)

/-- Closed form of a packet (rule R86): 96 samples from the start of a packet store its twelve bytes and classify exactly once, in the 96th
operation, on that buffer. First without ticks between the samples; then with ticks, gate edges and empty cycles anywhere between them, as long
as none of the 95 later samples resynchronises (`sym` in its range 0 to 45, so that every tick completes): up to the last sample the counter
has not moved and no request was enqueued. -/
def Obligations.PacketIsAssembledAndClassifiedOnce : Prop :=
  (∀ (s : State) (p : PacketWord), Memory.wf s.pkt = true → AtPacketStart s →
    samples (packetSamples p) s =
      classify { s with lastTs := s.usCount, bitPos := 0, byteAcc := 0, pktPos := 0, pkt := packetMemory p } ∧
    (∀ k : Nat, k < 12 → Memory.read (packetMemory p) k = pktByte p k) ∧ Memory.wf (packetMemory p) = true) ∧
  (∀ (s : State) (p : PacketWord) (ops : List Instr), Memory.wf s.pkt = true → AtPacketStart s → s.sym.toNat ≤ 45 →
    (∀ i ∈ ops, isEvent i = true) →
    p.getLsbD 0 :: (ops.filterMap sampleOf ++ [p.getLsbD 95]) = packetSamples p →
    (∀ a : State, exec (.sqckRise (p.getLsbD 0)) s = .next a → noResync (ops ++ [.sqckRise (p.getLsbD 95)]) a = true) →
    ∃ u : State, runOps (.sqckRise (p.getLsbD 0) :: ops) s = .next u ∧
      u.hyst = s.hyst ∧ (u.reqPending = true → s.reqPending = true) ∧
      exec (.sqckRise (p.getLsbD 95)) u =
        classify { u with lastTs := u.usCount, bitPos := 0, byteAcc := 0, pktPos := 0, pkt := packetMemory p })

/-! ## Packet classes and the request -/

/-- The primary and the secondary rows raise `hyst` by one and write nothing else (rules R91, R92), for `hyst` at most 13. -/
def Obligations.MatchingPacketsRaiseHyst : Prop :=
  ∀ (s : State) (p : PacketWord), s.hyst.toNat ≤ 13 →
    exec (.pktPrimaryA0 p) s = .next { s with hyst := s.hyst + 1 } ∧ exec (.pktPrimaryA1 p) s = .next { s with hyst := s.hyst + 1 } ∧
    exec (.pktPrimaryA2 p) s = .next { s with hyst := s.hyst + 1 } ∧ exec (.pktPrimary01Lo01 p) s = .next { s with hyst := s.hyst + 1 } ∧
    exec (.pktPrimary01Lo2 p) s = .next { s with hyst := s.hyst + 1 } ∧
    exec (.pktPrimary01Hi98 p) s = .next { s with hyst := s.hyst + 1 } ∧
    exec (.pktPrimary01HiA0 p) s = .next { s with hyst := s.hyst + 1 } ∧
    exec (.pktPrimary01HiC0 p) s = .next { s with hyst := s.hyst + 1 } ∧
    exec (.pktSecondaryFlag p) s = .next { s with hyst := s.hyst + 1 } ∧
    exec (.pktSecondary01 p) s = .next { s with hyst := s.hyst + 1 } ∧
    (s.hyst + 1).toNat = s.hyst.toNat + 1

/-- `PKT.OTHER` lowers `hyst` by one, never below 0, and writes nothing else (rule R93), for `hyst` at most 13. -/
def Obligations.OtherPacketsLowerHyst : Prop :=
  ∀ (s : State) (p : PacketWord), s.hyst.toNat ≤ 13 →
    exec (.pktOther p) s = .next { s with hyst := BitVec.ofNat 4 (s.hyst.toNat - 1) }

/-- A packet class with `hyst` 14 or 15, which no run reaches, faults (U3; notes/assumptions/6.md). -/
def Obligations.PacketClassFaultsAboveThirteen : Prop :=
  ∀ (s : State) (i : Instr), isPacketClass i = true → 14 ≤ s.hyst.toNat → exec i s = .fault (.hystOutOfRange s.hyst)

/-- Rules R94 and R95: after a classification, `hyst` at 14 is clamped to 11 unconditionally, and one request is enqueued if no injection runs
and the slot is empty; otherwise it is dropped without trace. -/
def Obligations.ThresholdClampsAndRequests : Prop :=
  (∀ s : State, classify s = andThen (exec (decodePkt96 s.params.grouping (decide (s.hyst ≠ 0)) (packetWord s.pkt)) s)
    (fun t => .next (threshold t))) ∧
  (∀ s : State,
    (s.hyst.toNat < 14 → threshold s = s) ∧
    (14 ≤ s.hyst.toNat → s.injectionRunning = true → threshold s = { s with hyst := 11 }) ∧
    (14 ≤ s.hyst.toNat → s.injectionRunning = false → s.reqPending = true → threshold s = { s with hyst := 11 }) ∧
    (14 ≤ s.hyst.toNat → s.injectionRunning = false → s.reqPending = false →
      threshold s = { s with hyst := 11, reqPending := true }))

/-- Fourteen primary packets in a row from `hyst = 0` give exactly one request, at the fourteenth, and leave `hyst` at 11; fewer give none
(rule R97, property S5). First without ticks between the samples, from any packet start; then with any number of ticks before each packet and up
to 180 before each sample, while the controller waits for the mode or for a request. -/
def Obligations.FourteenPrimaryPacketsRequestOnce : Prop :=
  (∀ (s : State) (ps : List PacketWord), Memory.wf s.pkt = true → AtPacketStart s → s.hyst = 0 → s.reqPending = false →
    s.injectionRunning = false → (∀ p ∈ ps, primaryMatch s.params.grouping p = true) → 1 ≤ ps.length → ps.length ≤ 14 →
    ∃ t : State, samples (ps.map packetSamples).flatten s = .next t ∧ t.bitPos = 0 ∧ t.pktPos = 0 ∧ t.byteAcc = 0 ∧
      (ps.length < 14 → t.hyst.toNat = ps.length ∧ t.reqPending = false) ∧
      (ps.length = 14 → t.hyst = 11 ∧ t.reqPending = true)) ∧
  (∀ (s : State) (g : Nat) (ps : List (Nat × PacketWord)), Memory.wf s.pkt = true → s.bitPos = 0 → s.byteAcc = 0 → s.pktPos = 0 →
    s.hyst = 0 → s.reqPending = false → s.injectionRunning = false → (s.fsm = 0 ∨ s.fsm = 1) → g ≤ 180 →
    (∀ q ∈ ps, primaryMatch s.params.grouping q.2 = true) → 1 ≤ ps.length → ps.length ≤ 14 →
    ∃ t : State, runOps (ps.map fun q => packetWithTicks q.1 g q.2).flatten s = .next t ∧
      t.bitPos = 0 ∧ t.pktPos = 0 ∧ t.byteAcc = 0 ∧
      (ps.length < 14 → t.hyst.toNat = ps.length ∧ t.reqPending = false) ∧
      (ps.length = 14 → t.hyst = 11 ∧ t.reqPending = true))

/-! ## `GATE_EDGE` and the mode -/

/-- Rule R101: before finalisation an edge counts one observation by its level, saturating, and does nothing else; after it, no edge counts. -/
def Obligations.EdgeCountsBeforeFinalisation : Prop :=
  (∀ s : State, s.modeDetected = false → s.params.finalizeOn = .tick →
    exec (.gateEdge true) s = .next { s with highEdges := min (s.highEdges + 1) (2 ^ s.params.edgeCntWidth - 1) } ∧
    exec (.gateEdge false) s = .next { s with lowEdges := min (s.lowEdges + 1) (2 ^ s.params.edgeCntWidth - 1) }) ∧
  (∀ (s t : State) (l : Bool), s.modeDetected = true → exec (.gateEdge l) s = .next t →
    t.highEdges = s.highEdges ∧ t.lowEdges = s.lowEdges)

/-- Rule R102: after finalisation, with the passthrough enabled, an edge copies its level to `dataOut` and does nothing else. -/
def Obligations.EdgeIsMirroredDuringPassthrough : Prop :=
  ∀ (s : State) (l : Bool), s.modeDetected = true → s.pu22Inject = true → exec (.gateEdge l) s = .next { s with dataOut := l }

/-- Rule R103: after finalisation, without the passthrough, an edge changes no state. -/
def Obligations.EdgeDoesNothingOtherwise : Prop :=
  ∀ (s : State) (l : Bool), s.modeDetected = true → s.pu22Inject = false → exec (.gateEdge l) s = .next s

/-- With `FINALIZE_ON` = `edge` (decision D12, notes/assumptions/13.md): the first edge at or after 1 000 000 µs finalises the mode and is not
counted; an earlier one is counted. -/
def Obligations.EdgeFinalisesWhereTheParameterSaysSo : Prop :=
  ∀ (s : State) (l : Bool), s.params.finalizeOn = .edge → s.modeDetected = false →
    (1000000 ≤ s.usCount → s.pu22Inject = false →
      exec (.gateEdge l) s = .next { s with pu22Mode := decide (100 < s.lowEdges), modeDetected := true }) ∧
    (s.usCount < 1000000 → l = true →
      exec (.gateEdge l) s = .next { s with highEdges := min (s.highEdges + 1) (2 ^ s.params.edgeCntWidth - 1) }) ∧
    (s.usCount < 1000000 → l = false →
      exec (.gateEdge l) s = .next { s with lowEdges := min (s.lowEdges + 1) (2 ^ s.params.edgeCntWidth - 1) })

/-- The frame of `GATE_EDGE` (rules R100, R150): it always completes, writes the edge counters before finalisation or `dataOut` after, and,
only where the parameter `FINALIZE_ON` is `edge`, the mode. No byte of the buffer changes. -/
def Obligations.GateEdgeFrame : Prop :=
  ∀ (s : State) (l : Bool), ∃ t : State, exec (.gateEdge l) s = .next t ∧
    t = { s with highEdges := t.highEdges, lowEdges := t.lowEdges, dataOut := t.dataOut, modeDetected := t.modeDetected,
                 pu22Mode := t.pu22Mode } ∧
    (s.params.finalizeOn = .tick → t.modeDetected = s.modeDetected ∧ t.pu22Mode = s.pu22Mode) ∧
    (s.pu22Inject = false → t.dataOut = s.dataOut) ∧ (∀ a : Nat, Memory.read t.pkt a = Memory.read s.pkt a)

/-- The mode is decided by the tick that makes `usCount` reach 1 000 000, by "more than 100 low observations", in the same tick as
`WAIT_MODE` is left; before it nothing but the time moves (rules R104, R112). -/
def Obligations.TickFinalisesTheModeAtOneSecond : Prop :=
  ∀ s : State, s.params.finalizeOn = .tick → s.modeDetected = false → s.fsm = 0 → s.usCount + 1 < 2 ^ s.params.tsw →
    (s.usCount + 1 < 1000000 → exec .usTick s = .next { s with usCount := s.usCount + 1 }) ∧
    (1000000 ≤ s.usCount + 1 →
      exec .usTick s = .next { s with usCount := s.usCount + 1, pu22Mode := decide (100 < s.lowEdges), modeDetected := true, fsm := 1 })

/-- The decision is never recomputed (rules R25, R26, R101, R105): no operation but `RESET` clears `modeDetected`, or changes `pu22Mode` or
an edge counter once the mode is final; and the mode becomes final only at or after 1 000 000 µs, by the low observations. Where the
parameter `FINALIZE_ON` is `edge` (decision D12) the edge that finalises is not counted, which is the model's reading
(notes/assumptions/13.md). -/
def Obligations.ModeIsDecidedOnce : Prop :=
  ∀ (i : Instr) (s t : State), i ≠ .reset → exec i s = .next t →
    (s.modeDetected = true →
      t.modeDetected = true ∧ t.pu22Mode = s.pu22Mode ∧ t.highEdges = s.highEdges ∧ t.lowEdges = s.lowEdges) ∧
    (s.modeDetected = false → t.modeDetected = false → t.pu22Mode = s.pu22Mode) ∧
    (s.modeDetected = false → t.modeDetected = true →
      1000000 ≤ t.usCount ∧ t.pu22Mode = decide (100 < s.lowEdges) ∧ t.lowEdges = s.lowEdges)

/-! ## `US_TICK` and the controller -/

/-- Rule R111: the time base advances by one modulo `2^TSW` at a tick; no other operation but `RESET` writes it. -/
def Obligations.TimeBaseAdvancesOnlyAtTicks : Prop :=
  ∀ (i : Instr) (s t : State), exec i s = .next t → i ≠ .reset →
    t.usCount = if i = .usTick then (s.usCount + 1) % 2 ^ s.params.tsw else s.usCount

/-- Rule R110: a tick is the time base, the finalisation test and then the action of the state whose code `fsm` holds, which sees the mode just
written. Where the parameter `FINALIZE_ON` is `edge` (decision D12) the tick finalises nothing, which is the model's reading
(notes/assumptions/13.md). -/
def Obligations.TickRunsTheStateOfItsCode : Prop :=
  ∀ (s u : State) (due : Bool),
    due = decide (s.params.finalizeOn = .tick ∧ s.modeDetected = false ∧ 1000000 ≤ (s.usCount + 1) % 2 ^ s.params.tsw) →
    u = { s with
      usCount := (s.usCount + 1) % 2 ^ s.params.tsw
      modeDetected := s.modeDetected || due
      pu22Mode := if due then decide (100 < s.lowEdges) else s.pu22Mode } →
    exec .usTick s = exec (decodeFsm3 s.fsm) u

/-- The frame of `US_TICK` (rules R110, R150): it writes no register of the decoder or of the edge counters, it clears `reqPending` only by
going to `START`, and no byte of the buffer changes. -/
def Obligations.UsTickFrame : Prop :=
  ∀ s t : State, exec .usTick s = .next t →
    t = { s with usCount := t.usCount, modeDetected := t.modeDetected, pu22Mode := t.pu22Mode, reqPending := t.reqPending,
                 injectionRunning := t.injectionRunning, pu22Inject := t.pu22Inject, fsm := t.fsm, round := t.round, sym := t.sym,
                 delayCnt := t.delayCnt, dataDir := t.dataDir, dataOut := t.dataOut, gateDir := t.gateDir, gateOut := t.gateOut,
                 reported := t.reported } ∧
    (t.reqPending = s.reqPending ∨ (s.fsm = 1 ∧ s.reqPending = true ∧ t.reqPending = false ∧ t.fsm = 2)) ∧
    (∀ a : Nat, Memory.read t.pkt a = Memory.read s.pkt a)

/-- A tick completes in every state whose symbol counter is in its range 0 to 45 (rules R23, R110), the reserved state code among them, and
the time advances by one. -/
def Obligations.TickCompletesInEveryState : Prop :=
  ∀ s : State, s.sym.toNat ≤ 45 → ∃ t : State, exec .usTick s = .next t ∧ t.usCount = (s.usCount + 1) % 2 ^ s.params.tsw

/-- Rule R112: `WAIT_MODE` waits for `modeDetected` and then goes to `WAIT_REQ`, writing nothing else. -/
def Obligations.WaitModeWaitsForTheMode : Prop :=
  (∀ s : State, s.modeDetected = false → exec .waitMode s = .next s) ∧
  (∀ s : State, s.modeDetected = true → exec .waitMode s = .next { s with fsm := 1 })

/-- Rule R113: `WAIT_REQ` consumes a pending request and goes to `START`; without one it waits, with no timeout. -/
def Obligations.WaitReqConsumesTheRequest : Prop :=
  (∀ s : State, s.reqPending = false → exec .waitReq s = .next s) ∧
  (∀ s : State, s.reqPending = true → exec .waitReq s = .next { s with reqPending := false, fsm := 2 })

/-- Rule R114: `START` drives the output line low, takes the gate line in the older-drive variant only, and begins at bit 0 of SCEE in round 0. -/
def Obligations.StartTakesTheLines : Prop :=
  (∀ s : State, s.pu22Mode = false → exec .start s = .next { s with
    dataDir := true, dataOut := false, gateDir := true, gateOut := false, injectionRunning := true, round := 0, sym := 0, delayCnt := 0,
    fsm := 3 }) ∧
  (∀ s : State, s.pu22Mode = true → exec .start s = .next { s with
    dataDir := true, dataOut := false, injectionRunning := true, round := 0, sym := 0, delayCnt := 0, fsm := 3 })

/-- Rule R121: `END` releases the output line, and the gate line in the older-drive variant only, clears `injectionRunning` and returns to
`WAIT_REQ`; levels and sub-state keep their values. -/
def Obligations.EndReleasesTheLines : Prop :=
  (∀ s : State, s.pu22Mode = false →
    exec .endInjection s = .next { s with dataDir := false, gateDir := false, injectionRunning := false, fsm := 1 }) ∧
  (∀ s : State, s.pu22Mode = true → exec .endInjection s = .next { s with dataDir := false, injectionRunning := false, fsm := 1 })

/-- The reserved state code 7 (rules R70, R142): the controller makes no step and stays there, the time still advances, and the model flags a
fault (the flag is the model's own field, notes/assumptions/8.md). -/
def Obligations.ReservedCodeIsStuckAndFlagged : Prop :=
  (∀ s : State, exec .fsmReserved7 s = .next { s with reported := some .reservedControllerState }) ∧
  (∀ s : State, s.fsm = 7 → s.modeDetected = true →
    exec .usTick s = .next { s with usCount := (s.usCount + 1) % 2 ^ s.params.tsw, reported := some .reservedControllerState })

/-- Rule R118: a symbol 0 drives the line low and stops the relay, in both variants. -/
def Obligations.SymbolZeroDrivesLow : Prop :=
  ∀ s : State, exec .sym0 s = .next { s with pu22Inject := false, dataDir := true, dataOut := false }

/-- Rule R119: a symbol 1 releases the line in the older-drive variant, and in the newer keeps driving and enables the passthrough; `dataOut` is
not written. -/
def Obligations.SymbolOneReleasesOrPassesThrough : Prop :=
  (∀ s : State, s.pu22Mode = false → exec .sym1 s = .next { s with dataDir := false }) ∧
  (∀ s : State, s.pu22Mode = true → exec .sym1 s = .next { s with dataDir := true, pu22Inject := true })

/-- Rule R116: while `delayCnt` is not 0 a `SEND` tick only decrements it. -/
def Obligations.SendCountsDownItsDelay : Prop :=
  ∀ s : State, s.delayCnt ≠ 0 →
    exec .sendE s = .next { s with delayCnt := s.delayCnt - 1 } ∧ exec .sendA s = .next { s with delayCnt := s.delayCnt - 1 } ∧
    exec .sendI s = .next { s with delayCnt := s.delayCnt - 1 }

/-- A `SEND` state with no delay running and `sym` below 44 starts bit number `sym` of its string, as rule R130 prints it: the symbol, the bit
period, the next index (rule R115). -/
def Obligations.SendStartsTheNextBit : Prop :=
  ∀ (s : State) (r : Region) (b : BitVec 1), s.delayCnt = 0 → (printedBits r)[s.sym.toNat]? = some b →
    exec (match r with | .scee => .sendE | .scea => .sendA | .scei => .sendI) s =
      .next { symbolEffect b s with delayCnt := s.params.tBitUs - 1, sym := s.sym + 1 }

/-- After the 44th bit period a `SEND` state starts the pause, writing no pin and no flag (rule R120); with `PAUSE_AFTER_LAST` = false the
sixth string goes to `END` instead (decision D16, notes/assumptions/14.md). -/
def Obligations.SendPausesAfterTheString : Prop :=
  ∀ s : State, s.delayCnt = 0 → s.sym = 44 →
    exec .sendE s = .next { s with delayCnt := s.params.tStringUs - 1, sym := 45 } ∧
    exec .sendA s = .next { s with delayCnt := s.params.tStringUs - 1, sym := 45 } ∧
    (s.round = 0 ∨ s.params.pauseAfterLast = true → exec .sendI s = .next { s with delayCnt := s.params.tStringUs - 1, sym := 45 }) ∧
    (s.round = 1 → s.params.pauseAfterLast = false → exec .sendI s = .next { s with sym := 0, fsm := 6 })

/-- After the pause the next string of the fixed order starts its bit 0, a 1, in the same tick; after SCEI of round 0 comes SCEE of round 1, and
after SCEI of round 1 comes `END` (rules R115, R117). -/
def Obligations.StringsFollowInTheFixedOrder : Prop :=
  ∀ s : State, s.delayCnt = 0 → s.sym = 45 →
    exec .sendE s = .next { symbolEffect 1 s with fsm := 4, sym := 1, delayCnt := s.params.tBitUs - 1 } ∧
    exec .sendA s = .next { symbolEffect 1 s with fsm := 5, sym := 1, delayCnt := s.params.tBitUs - 1 } ∧
    (s.round = 0 → exec .sendI s = .next { symbolEffect 1 s with fsm := 3, round := 1, sym := 1, delayCnt := s.params.tBitUs - 1 }) ∧
    (s.round = 1 → exec .sendI s = .next { s with fsm := 6, sym := 0 })

/-- A `SEND` state that would act with `sym` 46 to 63, which no run reaches, faults (rule R70, U3). -/
def Obligations.SendFaultsOnUnreachableSymbolCount : Prop :=
  ∀ s : State, s.delayCnt = 0 → 46 ≤ s.sym.toNat →
    exec .sendE s = .fault (.symOutOfRange s.sym) ∧ exec .sendA s = .fault (.symOutOfRange s.sym) ∧
    exec .sendI s = .fault (.symOutOfRange s.sym)

/-- The strings (rules R115, R130, R131): what the block does with a string is to start its bit number `sym`, and a table read out of range is a
contract violation without a successor (that the data row has this meaning is the model's reading, notes/assumptions/9.md). -/
def Obligations.StringRowsStartTheirNextBit : Prop :=
  ∀ (s : State) (r : Region),
    (∀ b : BitVec 1, (printedBits r)[s.sym.toNat]? = some b →
      exec r.instr s = .next { symbolEffect b s with delayCnt := s.params.tBitUs - 1, sym := s.sym + 1 }) ∧
    (44 ≤ s.sym.toNat → exec r.instr s = .fault (.contractViolation r.index s.sym.toNat))

/-- The ROM holds the three strings bit by bit as rule R130 prints them, its bytes are the 44-bit numbers of the opcode table, and the table
read has a value exactly for string index 0 to 2 and bit index 0 to 43 (rules R42, R44, R130, R131). -/
def Obligations.RomHoldsThePrintedStrings : Prop :=
  (∀ (r : Region) (i : Nat), bitAt r.index i = (printedBits r)[i]?) ∧
  (∀ k i : Nat, bitAt k i = none ↔ (2 < k ∨ 43 < i)) ∧
  (∀ r : Region, leValue (romBytes r.index) = (stringWord r).toNat) ∧
  (∀ r : Region, bitAt r.index 42 = some 0 ∧ bitAt r.index 43 = some 0)

/-! ## Injections -/

/-- Timing of an injection (rule R122): from the `START` tick, `injectionRunning` holds for `6 L + 2` ticks, `L = 44 T_BIT_US + T_STRING_US`, and
the next tick is the `END` action, which releases both lines. -/
def Obligations.InjectionLastsItsFixedTime : Prop :=
  ∀ s : State, s.params.wf = true → s.params.pauseAfterLast = true → s.modeDetected = true → s.fsm = 2 →
    (∀ n : Nat, 1 ≤ n → n ≤ 6 * s.params.stringTicks + 2 → ∃ t : State, ticks n s = .next t ∧ t.injectionRunning = true ∧
      t.usCount = (s.usCount + n) % 2 ^ s.params.tsw ∧ (t.fsm = 6 ↔ n = 6 * s.params.stringTicks + 2)) ∧
    (∃ t : State, ticks (6 * s.params.stringTicks + 3) s = .next t ∧ t.injectionRunning = false ∧ t.fsm = 1 ∧ t.dataDir = false ∧
      (s.pu22Mode = false → t.gateDir = false) ∧ t.round = 1 ∧ t.sym = 0 ∧ t.delayCnt = 0)

/-- Waveform of an injection (rules R122, R124): bit `i` of string `k` starts `1 + k L + i T_BIT_US` ticks after the `START` tick with its symbol
on the pins, and the pause of string `k` after its 44 bits, with the line driven low. That the passthrough is off before `START` is part of the
invariant `BlockInv`. -/
def Obligations.EveryBitOfAnInjectionStartsOnTime : Prop :=
  ∀ s : State, s.params.wf = true → s.modeDetected = true → s.fsm = 2 → s.pu22Inject = false → ∀ k : Nat, k < 6 →
    (∀ (i : Nat) (b : BitVec 1), (printedBits (stringNo k))[i]? = some b →
      ∃ t : State, ticks (2 + k * s.params.stringTicks + i * s.params.tBitUs) s = .next t ∧
        t.fsm.toNat = 3 + k % 3 ∧ t.round.toNat = k / 3 ∧ t.sym.toNat = i + 1 ∧ t.delayCnt = s.params.tBitUs - 1 ∧ t.dataOut = false ∧
        t.pu22Inject = (s.pu22Mode && b == 1) ∧ t.dataDir = (s.pu22Mode || b == 0)) ∧
    (k < 5 ∨ s.params.pauseAfterLast = true →
      ∃ t : State, ticks (2 + k * s.params.stringTicks + 44 * s.params.tBitUs) s = .next t ∧
        t.fsm.toNat = 3 + k % 3 ∧ t.sym = 45 ∧ t.delayCnt = s.params.tStringUs - 1 ∧
        dataLine t = some false ∧ t.pu22Inject = false ∧ gateLine t = (if s.pu22Mode then gateLine s else some false))

/-- No cancellation (rule R123): in a cycle without `RESET` and without a tick the controller's position, its delay, its flags and every direction
register stay; only `dataOut` may move, and only during passthrough. -/
def Obligations.OnlyTicksMoveTheController : Prop :=
  ∀ (s t : State) (v : InputVector) (vs : List InputVector), s.stimulus = v :: vs → v.getLsbD 5 = false → v.getLsbD 4 = false →
    step s = .next t →
    t.fsm = s.fsm ∧ t.round = s.round ∧ t.sym = s.sym ∧ t.delayCnt = s.delayCnt ∧ t.injectionRunning = s.injectionRunning ∧
    t.pu22Inject = s.pu22Inject ∧ t.dataDir = s.dataDir ∧ t.gateDir = s.gateDir ∧ t.gateOut = s.gateOut ∧ t.usCount = s.usCount ∧
    (s.pu22Inject = false → t.dataOut = s.dataOut)

/-- A request is never lost between its enqueue and its dequeue and never consumed twice (rule R47): in a cycle without `RESET`, with the
default order, a pending request stays pending, or is consumed by the tick that goes to `START`. -/
def Obligations.RequestsAreNeitherLostNorDoubled : Prop :=
  ∀ (s t : State) (v : InputVector) (vs : List InputVector), s.stimulus = v :: vs → v.getLsbD 5 = false → s.params.order = .sgt →
    step s = .next t → s.reqPending = true →
    (t.reqPending = true ∨ (s.fsm = 1 ∧ t.fsm = 2)) ∧ (s.fsm = 1 → v.getLsbD 4 = true → t.reqPending = false ∧ t.fsm = 2)

/-- Ownership of the output line (rule R151): while no injection runs the lines are released; a cycle that begins and ends without an injection
writes neither pin register of either line to another value; and no line is driven high but the output line, in the newer-drive variant with the
passthrough enabled (rule R176). -/
def Obligations.NobodyDrivesTheLinesWithoutAnInjection : Prop :=
  ∀ s t : State, BlockInv s → step s = .next t →
    (s.injectionRunning = false → dataLine s = none ∧ gateLine s = none) ∧
    (t.injectionRunning = false → dataLine t = none ∧ gateLine t = none) ∧
    (s.injectionRunning = false → t.injectionRunning = false →
      t.dataDir = s.dataDir ∧ t.dataOut = s.dataOut ∧ t.gateDir = s.gateDir ∧ t.gateOut = s.gateOut) ∧
    (gateLine t ≠ some true) ∧ (dataLine t = some true → t.pu22Mode = true ∧ t.pu22Inject = true)

/-! ## The invariant -/

/-- The invariant of rule R38, with the ranges of the registers, is kept by every step from every state that has it, whatever the parameters
and whatever the environment presents. -/
def Obligations.EveryStepKeepsInv : Prop := ∀ s t : State, BlockInv s → step s = .next t → BlockInv t

/-- The block never halts (rule R164) and no abnormal condition stops it (rule R141): from a state of the invariant every step answers a next
state, so no fault is ever reached. -/
def Obligations.NoStepStops : Prop := ∀ s : State, BlockInv s → ∃ t : State, step s = .next t
end

