-- ==== Sys2Proof/Laws/Memory.lean ====
section
/-! SUPPORT. The laws of the packet buffer: reading what was written, leaving every other byte alone, and keeping the canonical form. -/

namespace Sys2Proof.Machine

theorem Memory.read_nil (a : Nat) : Memory.read [] a = unlistedByte := rfl

theorem Memory.wfFrom_mono {lo hi : Nat} {m : Memory} (h : Memory.wfFrom hi m = true) (hle : lo ≤ hi) :
    Memory.wfFrom lo m = true := by
  cases m with
  | nil => rfl
  | cons c m =>
    simp only [Memory.wfFrom, Bool.and_eq_true, decide_eq_true_eq] at h ⊢
    exact ⟨⟨⟨by omega, h.1.1.2⟩, h.1.2⟩, h.2⟩

/-- A canonical buffer reads as unlisted below its first index. -/
theorem Memory.read_below {lo a : Nat} {m : Memory} (h : Memory.wfFrom lo m = true) (ha : a < lo) :
    Memory.read m a = unlistedByte := by
  induction m generalizing lo with
  | nil => rfl
  | cons c m ih =>
    obtain ⟨b, w⟩ := c
    simp only [Memory.wfFrom, Bool.and_eq_true, decide_eq_true_eq] at h
    have hne : b ≠ a := by omega
    simp only [Memory.read, hne, if_false]
    exact ih h.2 (by omega)

theorem Memory.read_write_other {m : Memory} {a b : Nat} (v : Byte) (hab : b ≠ a) :
    Memory.read (Memory.write m a v) b = Memory.read m b := by
  induction m with
  | nil =>
    by_cases hv : v = unlistedByte <;> simp [Memory.write, Memory.read, hv, hab.symm]
  | cons c m ih =>
    obtain ⟨k, w⟩ := c
    simp only [Memory.write]
    split
    · split
      · rfl
      · simp [Memory.read, hab.symm]
    · split
      · rename_i hk
        subst hk
        split
        · simp [Memory.read, hab.symm]
        · simp [Memory.read, hab.symm]
      · simp only [Memory.read, ih]

theorem Memory.read_write_same {m : Memory} {lo a : Nat} (v : Byte) (h : Memory.wfFrom lo m = true) :
    Memory.read (Memory.write m a v) a = v := by
  induction m generalizing lo with
  | nil =>
    by_cases hv : v = unlistedByte <;> simp [Memory.write, Memory.read, hv]
  | cons c m ih =>
    obtain ⟨k, w⟩ := c
    simp only [Memory.wfFrom, Bool.and_eq_true, decide_eq_true_eq] at h
    simp only [Memory.write]
    split
    · rename_i hak
      split
      · rename_i hv
        subst hv
        have hka : k ≠ a := by omega
        simp only [Memory.read, hka, if_false]
        exact Memory.read_below h.2 (by omega)
      · simp [Memory.read]
    · split
      · rename_i hk
        subst hk
        split
        · rename_i hv
          subst hv
          exact Memory.read_below h.2 (by omega)
        · simp [Memory.read]
      · rename_i hlt hne
        have hka : k ≠ a := fun e => hne e.symm
        simp only [Memory.read, hka, if_false]
        exact ih h.2

theorem Memory.wfFrom_write {m : Memory} {lo a : Nat} (v : Byte) (h : Memory.wfFrom lo m = true)
    (hlo : lo ≤ a) (ha : a < Config.pktBytes) : Memory.wfFrom lo (Memory.write m a v) = true := by
  induction m generalizing lo with
  | nil =>
    by_cases hv : v = unlistedByte <;> simp [Memory.write, Memory.wfFrom, hv, hlo, ha]
  | cons c m ih =>
    obtain ⟨k, w⟩ := c
    have h0 := h
    simp only [Memory.wfFrom, Bool.and_eq_true, decide_eq_true_eq] at h
    simp only [Memory.write]
    split
    · split
      · exact h0
      · rename_i hak hv
        simp only [Memory.wfFrom, Bool.and_eq_true, decide_eq_true_eq]
        exact ⟨⟨⟨hlo, ha⟩, by simpa using hv⟩, ⟨⟨by omega, h.1.1.2⟩, h.1.2⟩, h.2⟩
    · split
      · rename_i hk
        subst hk
        split
        · exact Memory.wfFrom_mono h.2 (by omega)
        · rename_i hv
          simp only [Memory.wfFrom, Bool.and_eq_true, decide_eq_true_eq]
          exact ⟨⟨⟨hlo, ha⟩, by simpa using hv⟩, h.2⟩
      · simp only [Memory.wfFrom, Bool.and_eq_true, decide_eq_true_eq]
        exact ⟨h.1, ih h.2 (by omega)⟩

/-- Every write keeps the canonical form. -/
theorem Memory.wf_write {m : Memory} {a : Nat} (v : Byte) (h : Memory.wf m = true) (ha : a < Config.pktBytes) :
    Memory.wf (Memory.write m a v) = true :=
  Memory.wfFrom_write v h (Nat.zero_le a) ha

/-- Canonical buffers that read alike are equal data. -/
theorem Memory.ext_wfFrom {lo : Nat} {m m' : Memory} (h : Memory.wfFrom lo m = true)
    (h' : Memory.wfFrom lo m' = true) (hr : ∀ a, Memory.read m a = Memory.read m' a) : m = m' := by
  induction m generalizing lo m' with
  | nil =>
    cases m' with
    | nil => rfl
    | cons c m' =>
      obtain ⟨k, w⟩ := c
      simp only [Memory.wfFrom, Bool.and_eq_true, decide_eq_true_eq] at h'
      have := hr k
      simp [Memory.read] at this
      simp [← this] at h'
  | cons c m ih =>
    obtain ⟨k, w⟩ := c
    have h0 := h
    simp only [Memory.wfFrom, Bool.and_eq_true, decide_eq_true_eq] at h
    cases m' with
    | nil =>
      have := hr k
      simp [Memory.read] at this
      simp [this] at h
    | cons c' m' =>
      obtain ⟨k', w'⟩ := c'
      have h0' := h'
      simp only [Memory.wfFrom, Bool.and_eq_true, decide_eq_true_eq] at h'
      have hk : k = k' := by
        rcases Nat.lt_trichotomy k k' with hlt | heq | hgt
        · have := hr k
          have hb : Memory.read ((k', w') :: m') k = unlistedByte :=
            Memory.read_below (lo := k') (by
              simp only [Memory.wfFrom, Bool.and_eq_true, decide_eq_true_eq]
              exact ⟨⟨⟨le_refl _, h'.1.1.2⟩, h'.1.2⟩, h'.2⟩) hlt
          rw [hb] at this
          simp [Memory.read] at this
          simp [this] at h
        · exact heq
        · have := hr k'
          have hb : Memory.read ((k, w) :: m) k' = unlistedByte :=
            Memory.read_below (lo := k) (by
              simp only [Memory.wfFrom, Bool.and_eq_true, decide_eq_true_eq]
              exact ⟨⟨⟨le_refl _, h.1.1.2⟩, h.1.2⟩, h.2⟩) hgt
          rw [hb] at this
          simp [Memory.read] at this
          simp [← this] at h'
      subst hk
      have hw : w = w' := by
        have := hr k
        simpa [Memory.read] using this
      subst hw
      have hm : m = m' := by
        refine ih h.2 h'.2 fun a => ?_
        by_cases hak : a = k
        · subst hak
          rw [Memory.read_below h.2 (by omega), Memory.read_below h'.2 (by omega)]
        · have := hr a
          have hka : k ≠ a := fun e => hak e.symm
          simpa [Memory.read, hka] using this
      rw [hm]

/-- Canonical buffers that read alike are equal data. -/
theorem Memory.ext_wf {m m' : Memory} (h : Memory.wf m = true) (h' : Memory.wf m' = true)
    (hr : ∀ a, Memory.read m a = Memory.read m' a) : m = m' :=
  Memory.ext_wfFrom h h' hr

/-- Storing bytes from `k` on keeps the canonical form while they fit into the buffer. -/
theorem Memory.wf_storeBytesFrom {k : Nat} {bs : List Byte} {m : Memory} (h : Memory.wf m = true)
    (hk : k + bs.length ≤ Config.pktBytes) : Memory.wf (storeBytesFrom k bs m) = true := by
  induction bs generalizing k m with
  | nil => exact h
  | cons b bs ih =>
    simp only [List.length_cons] at hk
    exact ih (Memory.wf_write b h (by omega)) (by omega)

/-- What a run of stored bytes reads as. -/
theorem Memory.read_storeBytesFrom {k : Nat} {bs : List Byte} {m : Memory} (h : Memory.wf m = true)
    (hk : k + bs.length ≤ Config.pktBytes) (a : Nat) :
    Memory.read (storeBytesFrom k bs m) a =
      if k ≤ a ∧ a < k + bs.length then bs.getD (a - k) unlistedByte else Memory.read m a := by
  induction bs generalizing k m with
  | nil =>
    have hn : ¬(k ≤ a ∧ a < k + ([] : List Byte).length) := by simp
    rw [if_neg hn, storeBytesFrom]
  | cons b bs ih =>
    simp only [List.length_cons] at hk ⊢
    rw [storeBytesFrom, ih (Memory.wf_write b h (by omega)) (by omega)]
    by_cases hak : a = k
    · subst hak
      have h1 : ¬(a + 1 ≤ a ∧ a < a + 1 + bs.length) := by omega
      rw [if_neg h1, Memory.read_write_same (lo := 0) b h, if_pos (by omega)]
      simp
    · rw [Memory.read_write_other b hak]
      by_cases hr : k + 1 ≤ a ∧ a < k + 1 + bs.length
      · rw [if_pos hr, if_pos (by omega)]
        have : a - k = (a - (k + 1)) + 1 := by omega
        rw [this, List.getD_cons_succ]
      · rw [if_neg hr, if_neg (by omega)]

end Sys2Proof.Machine
end

