-- ==== Sys2Proof/Laws/State.lean ====
section
/-! SUPPORT. One fact per field for every named update of the state, as simp rules: what the update writes, and that it leaves every
other field alone. -/

namespace Sys2Proof.Machine

@[simp] theorem resync_fields (s : State) :
    (resync s).params = s.params ∧ (resync s).usCount = s.usCount ∧ (resync s).lastTs = s.lastTs ∧ (resync s).bitPos = 0 ∧
    (resync s).byteAcc = 0 ∧ (resync s).pktPos = 0 ∧ (resync s).pkt = s.pkt ∧ (resync s).hyst = s.hyst ∧
    (resync s).reqPending = s.reqPending ∧ (resync s).highEdges = s.highEdges ∧ (resync s).lowEdges = s.lowEdges ∧
    (resync s).modeDetected = s.modeDetected ∧ (resync s).pu22Mode = s.pu22Mode ∧ (resync s).pu22Inject = s.pu22Inject ∧
    (resync s).injectionRunning = s.injectionRunning ∧ (resync s).fsm = s.fsm ∧ (resync s).round = s.round ∧
    (resync s).sym = s.sym ∧ (resync s).delayCnt = s.delayCnt ∧ (resync s).dataDir = s.dataDir ∧ (resync s).dataOut = s.dataOut ∧
    (resync s).gateDir = s.gateDir ∧ (resync s).gateOut = s.gateOut ∧ (resync s).stimulus = s.stimulus ∧
    (resync s).freeIdx = s.freeIdx ∧ (resync s).reported = s.reported :=
  ⟨rfl, rfl, rfl, rfl, rfl, rfl, rfl, rfl, rfl, rfl, rfl, rfl, rfl, rfl, rfl, rfl, rfl, rfl, rfl, rfl, rfl, rfl, rfl, rfl, rfl, rfl⟩

@[simp] theorem resyncCheck_fields (s : State) :
    (resyncCheck s).params = s.params ∧ (resyncCheck s).usCount = s.usCount ∧ (resyncCheck s).lastTs = s.usCount ∧
    (resyncCheck s).pkt = s.pkt ∧ (resyncCheck s).hyst = s.hyst ∧ (resyncCheck s).reqPending = s.reqPending ∧
    (resyncCheck s).highEdges = s.highEdges ∧ (resyncCheck s).lowEdges = s.lowEdges ∧
    (resyncCheck s).modeDetected = s.modeDetected ∧ (resyncCheck s).pu22Mode = s.pu22Mode ∧
    (resyncCheck s).pu22Inject = s.pu22Inject ∧ (resyncCheck s).injectionRunning = s.injectionRunning ∧
    (resyncCheck s).fsm = s.fsm ∧ (resyncCheck s).round = s.round ∧ (resyncCheck s).sym = s.sym ∧
    (resyncCheck s).delayCnt = s.delayCnt ∧ (resyncCheck s).dataDir = s.dataDir ∧ (resyncCheck s).dataOut = s.dataOut ∧
    (resyncCheck s).gateDir = s.gateDir ∧ (resyncCheck s).gateOut = s.gateOut ∧ (resyncCheck s).stimulus = s.stimulus ∧
    (resyncCheck s).freeIdx = s.freeIdx ∧ (resyncCheck s).reported = s.reported := by
  unfold resyncCheck
  split <;> exact ⟨rfl, rfl, rfl, rfl, rfl, rfl, rfl, rfl, rfl, rfl, rfl, rfl, rfl, rfl, rfl, rfl, rfl, rfl, rfl, rfl, rfl, rfl, rfl⟩

@[simp] theorem shiftBit_fields (d : Bool) (s : State) :
    (shiftBit d s).params = s.params ∧ (shiftBit d s).usCount = s.usCount ∧ (shiftBit d s).lastTs = s.lastTs ∧
    (shiftBit d s).bitPos = s.bitPos + 1 ∧ (shiftBit d s).byteAcc = s.byteAcc ||| placeSample d s.bitPos ∧
    (shiftBit d s).pktPos = s.pktPos ∧ (shiftBit d s).pkt = s.pkt ∧ (shiftBit d s).hyst = s.hyst ∧
    (shiftBit d s).reqPending = s.reqPending ∧ (shiftBit d s).highEdges = s.highEdges ∧ (shiftBit d s).lowEdges = s.lowEdges ∧
    (shiftBit d s).modeDetected = s.modeDetected ∧ (shiftBit d s).pu22Mode = s.pu22Mode ∧
    (shiftBit d s).pu22Inject = s.pu22Inject ∧ (shiftBit d s).injectionRunning = s.injectionRunning ∧ (shiftBit d s).fsm = s.fsm ∧
    (shiftBit d s).round = s.round ∧ (shiftBit d s).sym = s.sym ∧ (shiftBit d s).delayCnt = s.delayCnt ∧
    (shiftBit d s).dataDir = s.dataDir ∧ (shiftBit d s).dataOut = s.dataOut ∧ (shiftBit d s).gateDir = s.gateDir ∧
    (shiftBit d s).gateOut = s.gateOut ∧ (shiftBit d s).stimulus = s.stimulus ∧ (shiftBit d s).freeIdx = s.freeIdx ∧
    (shiftBit d s).reported = s.reported :=
  ⟨rfl, rfl, rfl, rfl, rfl, rfl, rfl, rfl, rfl, rfl, rfl, rfl, rfl, rfl, rfl, rfl, rfl, rfl, rfl, rfl, rfl, rfl, rfl, rfl, rfl, rfl⟩

@[simp] theorem request_fields (s : State) :
    (request s).params = s.params ∧ (request s).usCount = s.usCount ∧ (request s).lastTs = s.lastTs ∧
    (request s).bitPos = s.bitPos ∧ (request s).byteAcc = s.byteAcc ∧ (request s).pktPos = s.pktPos ∧ (request s).pkt = s.pkt ∧
    (request s).hyst = s.hyst ∧ (request s).reqPending = true ∧ (request s).highEdges = s.highEdges ∧
    (request s).lowEdges = s.lowEdges ∧ (request s).modeDetected = s.modeDetected ∧ (request s).pu22Mode = s.pu22Mode ∧
    (request s).pu22Inject = s.pu22Inject ∧ (request s).injectionRunning = s.injectionRunning ∧ (request s).fsm = s.fsm ∧
    (request s).round = s.round ∧ (request s).sym = s.sym ∧ (request s).delayCnt = s.delayCnt ∧ (request s).dataDir = s.dataDir ∧
    (request s).dataOut = s.dataOut ∧ (request s).gateDir = s.gateDir ∧ (request s).gateOut = s.gateOut ∧
    (request s).stimulus = s.stimulus ∧ (request s).freeIdx = s.freeIdx ∧ (request s).reported = s.reported := by
  unfold request
  split
  · rename_i h; refine ⟨rfl, rfl, rfl, rfl, rfl, rfl, rfl, rfl, h, rfl, rfl, rfl, rfl, rfl, rfl, rfl, rfl, rfl, rfl, rfl, rfl, rfl, rfl, rfl, rfl, rfl⟩
  · exact ⟨rfl, rfl, rfl, rfl, rfl, rfl, rfl, rfl, rfl, rfl, rfl, rfl, rfl, rfl, rfl, rfl, rfl, rfl, rfl, rfl, rfl, rfl, rfl, rfl, rfl, rfl⟩

@[simp] theorem threshold_fields (s : State) :
    (threshold s).params = s.params ∧ (threshold s).usCount = s.usCount ∧ (threshold s).lastTs = s.lastTs ∧
    (threshold s).bitPos = s.bitPos ∧ (threshold s).byteAcc = s.byteAcc ∧ (threshold s).pktPos = s.pktPos ∧
    (threshold s).pkt = s.pkt ∧ (threshold s).highEdges = s.highEdges ∧ (threshold s).lowEdges = s.lowEdges ∧
    (threshold s).modeDetected = s.modeDetected ∧ (threshold s).pu22Mode = s.pu22Mode ∧ (threshold s).pu22Inject = s.pu22Inject ∧
    (threshold s).injectionRunning = s.injectionRunning ∧ (threshold s).fsm = s.fsm ∧ (threshold s).round = s.round ∧
    (threshold s).sym = s.sym ∧ (threshold s).delayCnt = s.delayCnt ∧ (threshold s).dataDir = s.dataDir ∧
    (threshold s).dataOut = s.dataOut ∧ (threshold s).gateDir = s.gateDir ∧ (threshold s).gateOut = s.gateOut ∧
    (threshold s).stimulus = s.stimulus ∧ (threshold s).freeIdx = s.freeIdx ∧ (threshold s).reported = s.reported := by
  unfold threshold
  split
  · split <;> simp
  · exact ⟨rfl, rfl, rfl, rfl, rfl, rfl, rfl, rfl, rfl, rfl, rfl, rfl, rfl, rfl, rfl, rfl, rfl, rfl, rfl, rfl, rfl, rfl, rfl, rfl⟩

@[simp] theorem finalize_fields (s : State) :
    (finalize s).params = s.params ∧ (finalize s).usCount = s.usCount ∧ (finalize s).lastTs = s.lastTs ∧
    (finalize s).bitPos = s.bitPos ∧ (finalize s).byteAcc = s.byteAcc ∧ (finalize s).pktPos = s.pktPos ∧
    (finalize s).pkt = s.pkt ∧ (finalize s).hyst = s.hyst ∧ (finalize s).reqPending = s.reqPending ∧
    (finalize s).highEdges = s.highEdges ∧ (finalize s).lowEdges = s.lowEdges ∧ (finalize s).modeDetected = true ∧
    (finalize s).pu22Mode = lowEdgesSayPu22 s ∧ (finalize s).pu22Inject = s.pu22Inject ∧
    (finalize s).injectionRunning = s.injectionRunning ∧ (finalize s).fsm = s.fsm ∧ (finalize s).round = s.round ∧
    (finalize s).sym = s.sym ∧ (finalize s).delayCnt = s.delayCnt ∧ (finalize s).dataDir = s.dataDir ∧
    (finalize s).dataOut = s.dataOut ∧ (finalize s).gateDir = s.gateDir ∧ (finalize s).gateOut = s.gateOut ∧
    (finalize s).stimulus = s.stimulus ∧ (finalize s).freeIdx = s.freeIdx ∧ (finalize s).reported = s.reported :=
  ⟨rfl, rfl, rfl, rfl, rfl, rfl, rfl, rfl, rfl, rfl, rfl, rfl, rfl, rfl, rfl, rfl, rfl, rfl, rfl, rfl, rfl, rfl, rfl, rfl, rfl, rfl⟩

@[simp] theorem finalizeCheck_fields (s : State) :
    (finalizeCheck s).params = s.params ∧ (finalizeCheck s).usCount = s.usCount ∧ (finalizeCheck s).lastTs = s.lastTs ∧
    (finalizeCheck s).bitPos = s.bitPos ∧ (finalizeCheck s).byteAcc = s.byteAcc ∧ (finalizeCheck s).pktPos = s.pktPos ∧
    (finalizeCheck s).pkt = s.pkt ∧ (finalizeCheck s).hyst = s.hyst ∧ (finalizeCheck s).reqPending = s.reqPending ∧
    (finalizeCheck s).highEdges = s.highEdges ∧ (finalizeCheck s).lowEdges = s.lowEdges ∧
    (finalizeCheck s).pu22Inject = s.pu22Inject ∧ (finalizeCheck s).injectionRunning = s.injectionRunning ∧
    (finalizeCheck s).fsm = s.fsm ∧ (finalizeCheck s).round = s.round ∧ (finalizeCheck s).sym = s.sym ∧
    (finalizeCheck s).delayCnt = s.delayCnt ∧ (finalizeCheck s).dataDir = s.dataDir ∧ (finalizeCheck s).dataOut = s.dataOut ∧
    (finalizeCheck s).gateDir = s.gateDir ∧ (finalizeCheck s).gateOut = s.gateOut ∧ (finalizeCheck s).stimulus = s.stimulus ∧
    (finalizeCheck s).freeIdx = s.freeIdx ∧ (finalizeCheck s).reported = s.reported := by
  unfold finalizeCheck
  split <;> exact ⟨rfl, rfl, rfl, rfl, rfl, rfl, rfl, rfl, rfl, rfl, rfl, rfl, rfl, rfl, rfl, rfl, rfl, rfl, rfl, rfl, rfl, rfl, rfl, rfl⟩

@[simp] theorem finalizeAtEdge_fields (s : State) :
    (finalizeAtEdge s).params = s.params ∧ (finalizeAtEdge s).usCount = s.usCount ∧ (finalizeAtEdge s).lastTs = s.lastTs ∧
    (finalizeAtEdge s).bitPos = s.bitPos ∧ (finalizeAtEdge s).byteAcc = s.byteAcc ∧ (finalizeAtEdge s).pktPos = s.pktPos ∧
    (finalizeAtEdge s).pkt = s.pkt ∧ (finalizeAtEdge s).hyst = s.hyst ∧ (finalizeAtEdge s).reqPending = s.reqPending ∧
    (finalizeAtEdge s).highEdges = s.highEdges ∧ (finalizeAtEdge s).lowEdges = s.lowEdges ∧
    (finalizeAtEdge s).pu22Inject = s.pu22Inject ∧ (finalizeAtEdge s).injectionRunning = s.injectionRunning ∧
    (finalizeAtEdge s).fsm = s.fsm ∧ (finalizeAtEdge s).round = s.round ∧ (finalizeAtEdge s).sym = s.sym ∧
    (finalizeAtEdge s).delayCnt = s.delayCnt ∧ (finalizeAtEdge s).dataDir = s.dataDir ∧ (finalizeAtEdge s).dataOut = s.dataOut ∧
    (finalizeAtEdge s).gateDir = s.gateDir ∧ (finalizeAtEdge s).gateOut = s.gateOut ∧ (finalizeAtEdge s).stimulus = s.stimulus ∧
    (finalizeAtEdge s).freeIdx = s.freeIdx ∧ (finalizeAtEdge s).reported = s.reported := by
  unfold finalizeAtEdge
  split <;> simp

@[simp] theorem finalizeAtTick_fields (s : State) :
    (finalizeAtTick s).params = s.params ∧ (finalizeAtTick s).usCount = s.usCount ∧ (finalizeAtTick s).lastTs = s.lastTs ∧
    (finalizeAtTick s).bitPos = s.bitPos ∧ (finalizeAtTick s).byteAcc = s.byteAcc ∧ (finalizeAtTick s).pktPos = s.pktPos ∧
    (finalizeAtTick s).pkt = s.pkt ∧ (finalizeAtTick s).hyst = s.hyst ∧ (finalizeAtTick s).reqPending = s.reqPending ∧
    (finalizeAtTick s).highEdges = s.highEdges ∧ (finalizeAtTick s).lowEdges = s.lowEdges ∧
    (finalizeAtTick s).pu22Inject = s.pu22Inject ∧ (finalizeAtTick s).injectionRunning = s.injectionRunning ∧
    (finalizeAtTick s).fsm = s.fsm ∧ (finalizeAtTick s).round = s.round ∧ (finalizeAtTick s).sym = s.sym ∧
    (finalizeAtTick s).delayCnt = s.delayCnt ∧ (finalizeAtTick s).dataDir = s.dataDir ∧ (finalizeAtTick s).dataOut = s.dataOut ∧
    (finalizeAtTick s).gateDir = s.gateDir ∧ (finalizeAtTick s).gateOut = s.gateOut ∧ (finalizeAtTick s).stimulus = s.stimulus ∧
    (finalizeAtTick s).freeIdx = s.freeIdx ∧ (finalizeAtTick s).reported = s.reported := by
  unfold finalizeAtTick
  split <;> simp

@[simp] theorem timebase_fields (s : State) :
    (timebase s).params = s.params ∧ (timebase s).usCount = wrapInc s.params.tsw s.usCount ∧ (timebase s).lastTs = s.lastTs ∧
    (timebase s).bitPos = s.bitPos ∧ (timebase s).byteAcc = s.byteAcc ∧ (timebase s).pktPos = s.pktPos ∧
    (timebase s).pkt = s.pkt ∧ (timebase s).hyst = s.hyst ∧ (timebase s).reqPending = s.reqPending ∧
    (timebase s).highEdges = s.highEdges ∧ (timebase s).lowEdges = s.lowEdges ∧ (timebase s).modeDetected = s.modeDetected ∧
    (timebase s).pu22Mode = s.pu22Mode ∧ (timebase s).pu22Inject = s.pu22Inject ∧
    (timebase s).injectionRunning = s.injectionRunning ∧ (timebase s).fsm = s.fsm ∧ (timebase s).round = s.round ∧
    (timebase s).sym = s.sym ∧ (timebase s).delayCnt = s.delayCnt ∧ (timebase s).dataDir = s.dataDir ∧
    (timebase s).dataOut = s.dataOut ∧ (timebase s).gateDir = s.gateDir ∧ (timebase s).gateOut = s.gateOut ∧
    (timebase s).stimulus = s.stimulus ∧ (timebase s).freeIdx = s.freeIdx ∧ (timebase s).reported = s.reported :=
  ⟨rfl, rfl, rfl, rfl, rfl, rfl, rfl, rfl, rfl, rfl, rfl, rfl, rfl, rfl, rfl, rfl, rfl, rfl, rfl, rfl, rfl, rfl, rfl, rfl, rfl, rfl⟩

@[simp] theorem driveDataLow_fields (s : State) :
    (driveDataLow s).params = s.params ∧ (driveDataLow s).usCount = s.usCount ∧ (driveDataLow s).lastTs = s.lastTs ∧
    (driveDataLow s).bitPos = s.bitPos ∧ (driveDataLow s).byteAcc = s.byteAcc ∧ (driveDataLow s).pktPos = s.pktPos ∧
    (driveDataLow s).pkt = s.pkt ∧ (driveDataLow s).hyst = s.hyst ∧ (driveDataLow s).reqPending = s.reqPending ∧
    (driveDataLow s).highEdges = s.highEdges ∧ (driveDataLow s).lowEdges = s.lowEdges ∧
    (driveDataLow s).modeDetected = s.modeDetected ∧ (driveDataLow s).pu22Mode = s.pu22Mode ∧
    (driveDataLow s).pu22Inject = s.pu22Inject ∧ (driveDataLow s).injectionRunning = s.injectionRunning ∧
    (driveDataLow s).fsm = s.fsm ∧ (driveDataLow s).round = s.round ∧ (driveDataLow s).sym = s.sym ∧
    (driveDataLow s).delayCnt = s.delayCnt ∧ (driveDataLow s).dataDir = true ∧ (driveDataLow s).dataOut = false ∧
    (driveDataLow s).gateDir = s.gateDir ∧ (driveDataLow s).gateOut = s.gateOut ∧ (driveDataLow s).stimulus = s.stimulus ∧
    (driveDataLow s).freeIdx = s.freeIdx ∧ (driveDataLow s).reported = s.reported :=
  ⟨rfl, rfl, rfl, rfl, rfl, rfl, rfl, rfl, rfl, rfl, rfl, rfl, rfl, rfl, rfl, rfl, rfl, rfl, rfl, rfl, rfl, rfl, rfl, rfl, rfl, rfl⟩

@[simp] theorem releaseData_fields (s : State) :
    (releaseData s).params = s.params ∧ (releaseData s).usCount = s.usCount ∧ (releaseData s).lastTs = s.lastTs ∧
    (releaseData s).bitPos = s.bitPos ∧ (releaseData s).byteAcc = s.byteAcc ∧ (releaseData s).pktPos = s.pktPos ∧
    (releaseData s).pkt = s.pkt ∧ (releaseData s).hyst = s.hyst ∧ (releaseData s).reqPending = s.reqPending ∧
    (releaseData s).highEdges = s.highEdges ∧ (releaseData s).lowEdges = s.lowEdges ∧
    (releaseData s).modeDetected = s.modeDetected ∧ (releaseData s).pu22Mode = s.pu22Mode ∧
    (releaseData s).pu22Inject = s.pu22Inject ∧ (releaseData s).injectionRunning = s.injectionRunning ∧
    (releaseData s).fsm = s.fsm ∧ (releaseData s).round = s.round ∧ (releaseData s).sym = s.sym ∧
    (releaseData s).delayCnt = s.delayCnt ∧ (releaseData s).dataDir = false ∧ (releaseData s).dataOut = s.dataOut ∧
    (releaseData s).gateDir = s.gateDir ∧ (releaseData s).gateOut = s.gateOut ∧ (releaseData s).stimulus = s.stimulus ∧
    (releaseData s).freeIdx = s.freeIdx ∧ (releaseData s).reported = s.reported :=
  ⟨rfl, rfl, rfl, rfl, rfl, rfl, rfl, rfl, rfl, rfl, rfl, rfl, rfl, rfl, rfl, rfl, rfl, rfl, rfl, rfl, rfl, rfl, rfl, rfl, rfl, rfl⟩

@[simp] theorem takeGate_fields (s : State) :
    (takeGate s).params = s.params ∧ (takeGate s).usCount = s.usCount ∧ (takeGate s).lastTs = s.lastTs ∧
    (takeGate s).bitPos = s.bitPos ∧ (takeGate s).byteAcc = s.byteAcc ∧ (takeGate s).pktPos = s.pktPos ∧
    (takeGate s).pkt = s.pkt ∧ (takeGate s).hyst = s.hyst ∧ (takeGate s).reqPending = s.reqPending ∧
    (takeGate s).highEdges = s.highEdges ∧ (takeGate s).lowEdges = s.lowEdges ∧ (takeGate s).modeDetected = s.modeDetected ∧
    (takeGate s).pu22Mode = s.pu22Mode ∧ (takeGate s).pu22Inject = s.pu22Inject ∧
    (takeGate s).injectionRunning = s.injectionRunning ∧ (takeGate s).fsm = s.fsm ∧ (takeGate s).round = s.round ∧
    (takeGate s).sym = s.sym ∧ (takeGate s).delayCnt = s.delayCnt ∧ (takeGate s).dataDir = s.dataDir ∧
    (takeGate s).dataOut = s.dataOut ∧ (takeGate s).gateDir = (if s.pu22Mode then s.gateDir else true) ∧
    (takeGate s).gateOut = (if s.pu22Mode then s.gateOut else false) ∧ (takeGate s).stimulus = s.stimulus ∧
    (takeGate s).freeIdx = s.freeIdx ∧ (takeGate s).reported = s.reported := by
  unfold takeGate
  split <;> simp_all

@[simp] theorem releaseGate_fields (s : State) :
    (releaseGate s).params = s.params ∧ (releaseGate s).usCount = s.usCount ∧ (releaseGate s).lastTs = s.lastTs ∧
    (releaseGate s).bitPos = s.bitPos ∧ (releaseGate s).byteAcc = s.byteAcc ∧ (releaseGate s).pktPos = s.pktPos ∧
    (releaseGate s).pkt = s.pkt ∧ (releaseGate s).hyst = s.hyst ∧ (releaseGate s).reqPending = s.reqPending ∧
    (releaseGate s).highEdges = s.highEdges ∧ (releaseGate s).lowEdges = s.lowEdges ∧
    (releaseGate s).modeDetected = s.modeDetected ∧ (releaseGate s).pu22Mode = s.pu22Mode ∧
    (releaseGate s).pu22Inject = s.pu22Inject ∧ (releaseGate s).injectionRunning = s.injectionRunning ∧
    (releaseGate s).fsm = s.fsm ∧ (releaseGate s).round = s.round ∧ (releaseGate s).sym = s.sym ∧
    (releaseGate s).delayCnt = s.delayCnt ∧ (releaseGate s).dataDir = s.dataDir ∧ (releaseGate s).dataOut = s.dataOut ∧
    (releaseGate s).gateDir = (if s.pu22Mode then s.gateDir else false) ∧ (releaseGate s).gateOut = s.gateOut ∧
    (releaseGate s).stimulus = s.stimulus ∧ (releaseGate s).freeIdx = s.freeIdx ∧ (releaseGate s).reported = s.reported := by
  unfold releaseGate
  split <;> simp_all

@[simp] theorem report_fields (f : Fault) (s : State) :
    (report f s).params = s.params ∧ (report f s).usCount = s.usCount ∧ (report f s).lastTs = s.lastTs ∧
    (report f s).bitPos = s.bitPos ∧ (report f s).byteAcc = s.byteAcc ∧ (report f s).pktPos = s.pktPos ∧
    (report f s).pkt = s.pkt ∧ (report f s).hyst = s.hyst ∧ (report f s).reqPending = s.reqPending ∧
    (report f s).highEdges = s.highEdges ∧ (report f s).lowEdges = s.lowEdges ∧ (report f s).modeDetected = s.modeDetected ∧
    (report f s).pu22Mode = s.pu22Mode ∧ (report f s).pu22Inject = s.pu22Inject ∧
    (report f s).injectionRunning = s.injectionRunning ∧ (report f s).fsm = s.fsm ∧ (report f s).round = s.round ∧
    (report f s).sym = s.sym ∧ (report f s).delayCnt = s.delayCnt ∧ (report f s).dataDir = s.dataDir ∧
    (report f s).dataOut = s.dataOut ∧ (report f s).gateDir = s.gateDir ∧ (report f s).gateOut = s.gateOut ∧
    (report f s).stimulus = s.stimulus ∧ (report f s).freeIdx = s.freeIdx ∧ (report f s).reported = some f :=
  ⟨rfl, rfl, rfl, rfl, rfl, rfl, rfl, rfl, rfl, rfl, rfl, rfl, rfl, rfl, rfl, rfl, rfl, rfl, rfl, rfl, rfl, rfl, rfl, rfl, rfl, rfl⟩

@[simp] theorem count_fields (l : Bool) (s : State) :
    (count l s).params = s.params ∧ (count l s).usCount = s.usCount ∧ (count l s).lastTs = s.lastTs ∧
    (count l s).bitPos = s.bitPos ∧ (count l s).byteAcc = s.byteAcc ∧ (count l s).pktPos = s.pktPos ∧ (count l s).pkt = s.pkt ∧
    (count l s).hyst = s.hyst ∧ (count l s).reqPending = s.reqPending ∧ (count l s).modeDetected = s.modeDetected ∧
    (count l s).pu22Mode = s.pu22Mode ∧ (count l s).pu22Inject = s.pu22Inject ∧
    (count l s).injectionRunning = s.injectionRunning ∧ (count l s).fsm = s.fsm ∧ (count l s).round = s.round ∧
    (count l s).sym = s.sym ∧ (count l s).delayCnt = s.delayCnt ∧ (count l s).dataDir = s.dataDir ∧
    (count l s).dataOut = s.dataOut ∧ (count l s).gateDir = s.gateDir ∧ (count l s).gateOut = s.gateOut ∧
    (count l s).stimulus = s.stimulus ∧ (count l s).freeIdx = s.freeIdx ∧ (count l s).reported = s.reported := by
  unfold count
  split <;> exact ⟨rfl, rfl, rfl, rfl, rfl, rfl, rfl, rfl, rfl, rfl, rfl, rfl, rfl, rfl, rfl, rfl, rfl, rfl, rfl, rfl, rfl, rfl, rfl, rfl⟩

@[simp] theorem mirror_fields (l : Bool) (s : State) :
    (mirror l s).params = s.params ∧ (mirror l s).usCount = s.usCount ∧ (mirror l s).lastTs = s.lastTs ∧
    (mirror l s).bitPos = s.bitPos ∧ (mirror l s).byteAcc = s.byteAcc ∧ (mirror l s).pktPos = s.pktPos ∧
    (mirror l s).pkt = s.pkt ∧ (mirror l s).hyst = s.hyst ∧ (mirror l s).reqPending = s.reqPending ∧
    (mirror l s).highEdges = s.highEdges ∧ (mirror l s).lowEdges = s.lowEdges ∧ (mirror l s).modeDetected = s.modeDetected ∧
    (mirror l s).pu22Mode = s.pu22Mode ∧ (mirror l s).pu22Inject = s.pu22Inject ∧
    (mirror l s).injectionRunning = s.injectionRunning ∧ (mirror l s).fsm = s.fsm ∧ (mirror l s).round = s.round ∧
    (mirror l s).sym = s.sym ∧ (mirror l s).delayCnt = s.delayCnt ∧ (mirror l s).dataDir = s.dataDir ∧ (mirror l s).dataOut = l ∧
    (mirror l s).gateDir = s.gateDir ∧ (mirror l s).gateOut = s.gateOut ∧ (mirror l s).stimulus = s.stimulus ∧
    (mirror l s).freeIdx = s.freeIdx ∧ (mirror l s).reported = s.reported :=
  ⟨rfl, rfl, rfl, rfl, rfl, rfl, rfl, rfl, rfl, rfl, rfl, rfl, rfl, rfl, rfl, rfl, rfl, rfl, rfl, rfl, rfl, rfl, rfl, rfl, rfl, rfl⟩

@[simp] theorem edgeAction_fields (l : Bool) (s : State) :
    (edgeAction l s).params = s.params ∧ (edgeAction l s).usCount = s.usCount ∧ (edgeAction l s).lastTs = s.lastTs ∧
    (edgeAction l s).bitPos = s.bitPos ∧ (edgeAction l s).byteAcc = s.byteAcc ∧ (edgeAction l s).pktPos = s.pktPos ∧
    (edgeAction l s).pkt = s.pkt ∧ (edgeAction l s).hyst = s.hyst ∧ (edgeAction l s).reqPending = s.reqPending ∧
    (edgeAction l s).modeDetected = s.modeDetected ∧ (edgeAction l s).pu22Mode = s.pu22Mode ∧
    (edgeAction l s).pu22Inject = s.pu22Inject ∧ (edgeAction l s).injectionRunning = s.injectionRunning ∧
    (edgeAction l s).fsm = s.fsm ∧ (edgeAction l s).round = s.round ∧ (edgeAction l s).sym = s.sym ∧
    (edgeAction l s).delayCnt = s.delayCnt ∧ (edgeAction l s).dataDir = s.dataDir ∧ (edgeAction l s).gateDir = s.gateDir ∧
    (edgeAction l s).gateOut = s.gateOut ∧ (edgeAction l s).stimulus = s.stimulus ∧ (edgeAction l s).freeIdx = s.freeIdx ∧
    (edgeAction l s).reported = s.reported := by
  unfold edgeAction
  split
  · split <;> simp
  · simp

@[simp] theorem loadBitPeriod_fields (s : State) :
    (loadBitPeriod s).params = s.params ∧ (loadBitPeriod s).usCount = s.usCount ∧ (loadBitPeriod s).lastTs = s.lastTs ∧
    (loadBitPeriod s).bitPos = s.bitPos ∧ (loadBitPeriod s).byteAcc = s.byteAcc ∧ (loadBitPeriod s).pktPos = s.pktPos ∧
    (loadBitPeriod s).pkt = s.pkt ∧ (loadBitPeriod s).hyst = s.hyst ∧ (loadBitPeriod s).reqPending = s.reqPending ∧
    (loadBitPeriod s).highEdges = s.highEdges ∧ (loadBitPeriod s).lowEdges = s.lowEdges ∧
    (loadBitPeriod s).modeDetected = s.modeDetected ∧ (loadBitPeriod s).pu22Mode = s.pu22Mode ∧
    (loadBitPeriod s).pu22Inject = s.pu22Inject ∧ (loadBitPeriod s).injectionRunning = s.injectionRunning ∧
    (loadBitPeriod s).fsm = s.fsm ∧ (loadBitPeriod s).round = s.round ∧ (loadBitPeriod s).sym = s.sym + 1 ∧
    (loadBitPeriod s).delayCnt = s.params.tBitUs - 1 ∧ (loadBitPeriod s).dataDir = s.dataDir ∧
    (loadBitPeriod s).dataOut = s.dataOut ∧ (loadBitPeriod s).gateDir = s.gateDir ∧ (loadBitPeriod s).gateOut = s.gateOut ∧
    (loadBitPeriod s).stimulus = s.stimulus ∧ (loadBitPeriod s).freeIdx = s.freeIdx ∧ (loadBitPeriod s).reported = s.reported :=
  ⟨rfl, rfl, rfl, rfl, rfl, rfl, rfl, rfl, rfl, rfl, rfl, rfl, rfl, rfl, rfl, rfl, rfl, rfl, rfl, rfl, rfl, rfl, rfl, rfl, rfl, rfl⟩

@[simp] theorem finishInjection_fields (s : State) :
    (finishInjection s).params = s.params ∧ (finishInjection s).usCount = s.usCount ∧ (finishInjection s).lastTs = s.lastTs ∧
    (finishInjection s).bitPos = s.bitPos ∧ (finishInjection s).byteAcc = s.byteAcc ∧ (finishInjection s).pktPos = s.pktPos ∧
    (finishInjection s).pkt = s.pkt ∧ (finishInjection s).hyst = s.hyst ∧ (finishInjection s).reqPending = s.reqPending ∧
    (finishInjection s).highEdges = s.highEdges ∧ (finishInjection s).lowEdges = s.lowEdges ∧
    (finishInjection s).modeDetected = s.modeDetected ∧ (finishInjection s).pu22Mode = s.pu22Mode ∧
    (finishInjection s).pu22Inject = s.pu22Inject ∧ (finishInjection s).injectionRunning = s.injectionRunning ∧
    (finishInjection s).fsm = 6 ∧ (finishInjection s).round = s.round ∧ (finishInjection s).sym = 0 ∧
    (finishInjection s).delayCnt = s.delayCnt ∧ (finishInjection s).dataDir = s.dataDir ∧
    (finishInjection s).dataOut = s.dataOut ∧ (finishInjection s).gateDir = s.gateDir ∧ (finishInjection s).gateOut = s.gateOut ∧
    (finishInjection s).stimulus = s.stimulus ∧ (finishInjection s).freeIdx = s.freeIdx ∧
    (finishInjection s).reported = s.reported :=
  ⟨rfl, rfl, rfl, rfl, rfl, rfl, rfl, rfl, rfl, rfl, rfl, rfl, rfl, rfl, rfl, rfl, rfl, rfl, rfl, rfl, rfl, rfl, rfl, rfl, rfl, rfl⟩

@[simp] theorem startPause_fields (s : State) :
    (startPause s).params = s.params ∧ (startPause s).usCount = s.usCount ∧ (startPause s).lastTs = s.lastTs ∧
    (startPause s).bitPos = s.bitPos ∧ (startPause s).byteAcc = s.byteAcc ∧ (startPause s).pktPos = s.pktPos ∧
    (startPause s).pkt = s.pkt ∧ (startPause s).hyst = s.hyst ∧ (startPause s).reqPending = s.reqPending ∧
    (startPause s).highEdges = s.highEdges ∧ (startPause s).lowEdges = s.lowEdges ∧ (startPause s).modeDetected = s.modeDetected ∧
    (startPause s).pu22Mode = s.pu22Mode ∧ (startPause s).pu22Inject = s.pu22Inject ∧
    (startPause s).injectionRunning = s.injectionRunning ∧ (startPause s).fsm = s.fsm ∧ (startPause s).round = s.round ∧
    (startPause s).sym = 45 ∧ (startPause s).delayCnt = s.params.tStringUs - 1 ∧ (startPause s).dataDir = s.dataDir ∧
    (startPause s).dataOut = s.dataOut ∧ (startPause s).gateDir = s.gateDir ∧ (startPause s).gateOut = s.gateOut ∧
    (startPause s).stimulus = s.stimulus ∧ (startPause s).freeIdx = s.freeIdx ∧ (startPause s).reported = s.reported :=
  ⟨rfl, rfl, rfl, rfl, rfl, rfl, rfl, rfl, rfl, rfl, rfl, rfl, rfl, rfl, rfl, rfl, rfl, rfl, rfl, rfl, rfl, rfl, rfl, rfl, rfl, rfl⟩

@[simp] theorem takeVector_fields (s : State) :
    (takeVector s).params = s.params ∧ (takeVector s).usCount = s.usCount ∧ (takeVector s).lastTs = s.lastTs ∧
    (takeVector s).bitPos = s.bitPos ∧ (takeVector s).byteAcc = s.byteAcc ∧ (takeVector s).pktPos = s.pktPos ∧
    (takeVector s).pkt = s.pkt ∧ (takeVector s).hyst = s.hyst ∧ (takeVector s).reqPending = s.reqPending ∧
    (takeVector s).highEdges = s.highEdges ∧ (takeVector s).lowEdges = s.lowEdges ∧ (takeVector s).modeDetected = s.modeDetected ∧
    (takeVector s).pu22Mode = s.pu22Mode ∧ (takeVector s).pu22Inject = s.pu22Inject ∧
    (takeVector s).injectionRunning = s.injectionRunning ∧ (takeVector s).fsm = s.fsm ∧ (takeVector s).round = s.round ∧
    (takeVector s).sym = s.sym ∧ (takeVector s).delayCnt = s.delayCnt ∧ (takeVector s).dataDir = s.dataDir ∧
    (takeVector s).dataOut = s.dataOut ∧ (takeVector s).gateDir = s.gateDir ∧ (takeVector s).gateOut = s.gateOut ∧
    (takeVector s).reported = s.reported := by
  unfold takeVector
  split <;> simp

@[simp] theorem resetRegisters_model_fields (s : State) :
    (resetRegisters s).params = s.params ∧ (resetRegisters s).stimulus = s.stimulus ∧
    (resetRegisters s).freeIdx = s.freeIdx := ⟨rfl, rfl, rfl⟩

/-- `finalizeCheck`, field by field (rule R104). -/
theorem finalizeCheck_mode (s : State) :
    (finalizeCheck s).modeDetected = (s.modeDetected || finalizeDue s) ∧
    (finalizeCheck s).pu22Mode = (if finalizeDue s then lowEdgesSayPu22 s else s.pu22Mode) := by
  unfold finalizeCheck
  split <;> simp_all

/-- `threshold`, field by field (rules R94, R95). -/
theorem threshold_hyst_req (s : State) :
    (threshold s).hyst = (if hystTriggers s then 11 else s.hyst) ∧
    (threshold s).reqPending = (s.reqPending || (hystTriggers s && !s.injectionRunning)) := by
  unfold threshold
  split
  · split
    · simp_all [Config.hystClamp]
    · simp_all [Config.hystClamp]
  · simp_all

end Sys2Proof.Machine
end

