-- ==== Sys2Proof/Laws/Ops.lean ====
section
/-! SUPPORT. One fact per shared operation that says everything it can do, cited instead of unfolding the operation. -/

namespace Sys2Proof.Machine

/-! ## Sequencing -/

@[simp] theorem andThen_next (s : State) (k : State → Result) : andThen (.next s) k = k s := rfl
@[simp] theorem andThen_fault (f : Fault) (k : State → Result) : andThen (.fault f) k = .fault f := rfl
@[simp] theorem andThen_refused (r : Refusal) (k : State → Result) : andThen (.refused r) k = .refused r := rfl

/-- A sequence answers a next state exactly when both parts do. -/
theorem andThen_eq_next {r : Result} {k : State → Result} {t : State} :
    andThen r k = .next t ↔ ∃ s, r = .next s ∧ k s = .next t := by
  cases r <;> simp

/-- A sequence refuses only where a part does. -/
theorem andThen_eq_refused {r : Result} {k : State → Result} {w : Refusal} :
    andThen r k = .refused w ↔ r = .refused w ∨ ∃ s, r = .next s ∧ k s = .refused w := by
  cases r <;> simp

@[simp] theorem runOps_nil (s : State) : runOps [] s = .next s := rfl
@[simp] theorem runOps_cons (i : Instr) (is : List Instr) (s : State) :
    runOps (i :: is) s = andThen (exec i s) (runOps is) := rfl

/-- Operations performed one after another. -/
theorem runOps_append (is js : List Instr) (s : State) :
    runOps (is ++ js) s = andThen (runOps is s) (runOps js) := by
  induction is generalizing s with
  | nil => rfl
  | cons i is ih =>
    simp only [List.cons_append, runOps_cons]
    cases exec i s <;> simp [ih]

/-! ## The packet classes and `CLASSIFY` -/

theorem hystUp_eq_next {s t : State} :
    hystUp s = .next t ↔ s.hyst.toNat < Config.hystTrigger ∧ t = { s with hyst := s.hyst + 1 } := by
  unfold hystUp
  split
  · simp; omega
  · simp only [Host.Outcome.next.injEq]
    exact ⟨fun h => ⟨by omega, h.symm⟩, fun h => h.2.symm⟩

theorem hystDown_eq_next {s t : State} :
    hystDown s = .next t ↔ s.hyst.toNat < Config.hystTrigger ∧
      t = { s with hyst := if 0 < s.hyst.toNat then s.hyst - 1 else s.hyst } := by
  unfold hystDown
  split
  · simp; omega
  · split <;> simp only [Host.Outcome.next.injEq] <;>
      exact ⟨fun h => ⟨by omega, h.symm⟩, fun h => h.2.symm⟩

/-- A packet class moves `hyst` by one and writes nothing else (rules R91 to R93). -/
theorem runPktRow_eq_next {r : PktRow} {p : PacketWord} {s t : State} :
    runPktRow r p s = .next t ↔ s.hyst.toNat < Config.hystTrigger ∧
      t = { s with hyst := if r.cls = .other then (if 0 < s.hyst.toNat then s.hyst - 1 else s.hyst) else s.hyst + 1 } := by
  cases r
  case other => exact hystDown_eq_next
  all_goals exact hystUp_eq_next

/-- `CLASSIFY`: the class, then the threshold (rule R90). -/
theorem classify_eq_next {s t : State} :
    classify s = .next t ↔ s.hyst.toNat < Config.hystTrigger ∧
      t = threshold { s with hyst :=
        if (bufferRow s).cls = .other then (if 0 < s.hyst.toNat then s.hyst - 1 else s.hyst) else s.hyst + 1 } := by
  simp only [classify, andThen_eq_next, runPktRow_eq_next, Host.Outcome.next.injEq]
  constructor
  · rintro ⟨u, ⟨h, rfl⟩, rfl⟩
    exact ⟨h, rfl⟩
  · rintro ⟨h, rfl⟩
    exact ⟨_, ⟨h, rfl⟩, rfl⟩

/-- The row that `CLASSIFY` performs is the operation the decoder reads from the buffer. -/
theorem runPktRow_eq_exec (r : PktRow) (p : PacketWord) (s : State) : runPktRow r p s = exec (r.instr p) s := by
  cases r <;> rfl

/-! ## The assembler -/

theorem pktWrite_eq_next {k : Nat} {v : Byte} {s t : State} :
    pktWrite k v s = .next t ↔ k < Config.pktBytes ∧ t = { s with pkt := Memory.write s.pkt k v } := by
  unfold pktWrite
  split
  · simp only [Host.Outcome.next.injEq]
    exact ⟨fun h => ⟨by omega, h.symm⟩, fun h => h.2.symm⟩
  · simp; omega

theorem storeByte_eq_next {s t : State} :
    storeByte s = .next t ↔ s.pktPos.toNat < Config.pktBytes ∧
      t = { s with pkt := Memory.write s.pkt s.pktPos.toNat s.byteAcc, byteAcc := 0, pktPos := nextPktPos s.pktPos } := by
  simp only [storeByte, andThen_eq_next, pktWrite_eq_next, Host.Outcome.next.injEq]
  constructor
  · rintro ⟨u, ⟨h, rfl⟩, rfl⟩
    exact ⟨h, rfl⟩
  · rintro ⟨h, rfl⟩
    exact ⟨_, ⟨h, rfl⟩, rfl⟩

/-- The next packet position is 0 exactly after the twelfth byte. -/
theorem nextPktPos_toNat {k : BitVec 4} (h : k.toNat < Config.pktBytes) :
    (nextPktPos k).toNat = if k.toNat = 11 then 0 else k.toNat + 1 := by
  simp only [nextPktPos, Config.pktBytes, BitVec.toNat_ofNat] at *
  split <;> omega

/-- The state in which a completed byte has just been stored. -/
def stored (s : State) : State :=
  { s with pkt := Memory.write s.pkt s.pktPos.toNat s.byteAcc, byteAcc := 0, pktPos := nextPktPos s.pktPos }

/-- Everything `SQCK_RISE` can do (rules R80 to R84): shift a bit, or complete a byte, or complete a packet. -/
theorem execSqckRise_eq_next {d : Bool} {s t : State} :
    execSqckRise d s = .next t ↔
      ((shiftBit d (resyncCheck s)).bitPos ≠ 0 ∧ t = shiftBit d (resyncCheck s)) ∨
      ((shiftBit d (resyncCheck s)).bitPos = 0 ∧ (resyncCheck s).pktPos.toNat < Config.pktBytes ∧
        packetDone (stored (shiftBit d (resyncCheck s))) = .next t) := by
  simp only [execSqckRise]
  by_cases hb : (shiftBit d (resyncCheck s)).bitPos = 0
  · simp only [hb, if_true, ne_eq, not_true, false_and, true_and, false_or]
    simp only [andThen_eq_next, storeByte_eq_next]
    constructor
    · rintro ⟨u, ⟨h, rfl⟩, h2⟩
      exact ⟨by simpa using h, h2⟩
    · rintro ⟨h, h2⟩
      exact ⟨_, ⟨by simpa using h, rfl⟩, h2⟩
  · simp only [hb, if_false, ne_eq, not_false_eq_true, true_and, false_and, or_false, Host.Outcome.next.injEq]
    exact eq_comm

/-! ## The controller -/

/-- A symbol (rules R118, R119): it writes the output line and the passthrough flag, and always completes. -/
theorem runSymbol_eq (b : SymbolCode) (s : State) :
    runSymbol b s = .next
      (if b = 0 then { s with pu22Inject := false, dataDir := true, dataOut := false }
       else if s.pu22Mode then { s with dataDir := true, pu22Inject := true }
       else { s with dataDir := false }) := by
  have hb : b = 0 ∨ b = 1 := by revert b; decide
  rcases hb with rfl | rfl
  · rfl
  · simp only [runSymbol, execSym1]
    split
    · simp_all
    · split <;> simp_all [releaseData]

/-- The controller's action on a symbol is the operation the decoder reads from it. -/
theorem runSymbol_eq_exec (b : SymbolCode) (s : State) : runSymbol b s = exec (decodeSym1 b) s := by
  have hb : b = 0 ∨ b = 1 := by revert b; decide
  rcases hb with rfl | rfl <;> rfl

/-- The controller's step is the operation the decoder reads from the state code. -/
theorem runFsmRow_eq_exec (r : FsmRow) (s : State) : runFsmRow r s = exec r.instr s := by
  cases r <;> rfl

/-- A string's row is the operation of its data row. -/
theorem runRegion_eq_exec (r : Region) (s : State) : runRegion r s = exec r.instr s := by
  cases r <;> rfl

theorem runRegion_eq_startBit (r : Region) (s : State) : runRegion r s = startBit r.index s := by
  cases r <;> rfl

theorem bitAt_isSome {k i : Nat} (hk : k < 3) (hi : i < 44) : ∃ b, bitAt k i = some b := by
  simp [bitAt, Config.nStrings, Config.stringBits, hk, hi]

theorem bitAt_none {k i : Nat} (h : ¬(k < 3 ∧ i < 44)) : bitAt k i = none := by
  simp [bitAt, Config.nStrings, Config.stringBits, h]

/-- Starting a bit inside the string (rule R115): the symbol, the delay, the next index. -/
theorem startBit_eq {k : Nat} {b : SymbolCode} {s : State} (h : bitAt k s.sym.toNat = some b) :
    startBit k s = .next (loadBitPeriod
      (if b = 0 then { s with pu22Inject := false, dataDir := true, dataOut := false }
       else if s.pu22Mode then { s with dataDir := true, pu22Inject := true }
       else { s with dataDir := false })) := by
  simp only [startBit, h, runSymbol_eq, andThen_next]

/-- Starting a bit outside the string faults (rule R131). -/
theorem startBit_fault {k : Nat} {s : State} (h : bitAt k s.sym.toNat = none) :
    startBit k s = .fault (.contractViolation k s.sym.toNat) := by
  simp only [startBit, h, raiseContractViolation]

/-- Everything a `SEND` state can do when it answers a next state (rule R115). -/
theorem send_eq_next {r : Region} {s t : State} :
    send r s = .next t ↔
      (s.delayCnt ≠ 0 ∧ t = { s with delayCnt := s.delayCnt - 1 }) ∨
      (s.delayCnt = 0 ∧ s.sym = 45 ∧ afterPause r s = .next t) ∨
      (s.delayCnt = 0 ∧ s.sym.toNat < 44 ∧ runRegion r s = .next t) ∨
      (s.delayCnt = 0 ∧ s.sym = 44 ∧ t = afterBits r s) := by
  unfold send
  by_cases h0 : s.delayCnt = 0
  · rw [if_neg (by simpa using h0)]
    by_cases h45 : s.sym = 45
    · have hlt : ¬ s.sym.toNat < 44 := by simp [h45]
      have h44 : ¬ s.sym = 44 := by simp [h45]
      rw [if_pos h45]
      simp only [h0, hlt, h44, ne_eq, not_true, false_and, and_false, false_or, or_false, true_and]
      exact ⟨fun h => ⟨h45, h⟩, fun h => h.2⟩
    · rw [if_neg h45]
      by_cases hlt : s.sym.toNat < 44
      · have h44 : ¬ s.sym = 44 := fun e => by simp [e] at hlt
        rw [if_pos (by simpa [Config.stringBits] using hlt)]
        tauto
      · rw [if_neg (by simpa [Config.stringBits] using hlt)]
        by_cases h44 : s.sym = 44
        · rw [if_pos h44, Host.Outcome.next.injEq, eq_comm]
          tauto
        · rw [if_neg h44]
          simp only [reduceCtorEq]
          tauto
  · rw [if_pos h0, Host.Outcome.next.injEq, eq_comm]
    tauto

end Sys2Proof.Machine
end

