-- ==== Sys2Proof/Laws/Controller.lean ====
section
/-! SUPPORT. What the parts of a tick leave unchanged when they answer a next state. -/

namespace Sys2Proof.Machine

/-- Starting a bit writes the output line, the passthrough flag, the delay and the symbol counter. -/
theorem startBit_frame {k : Nat} {s t : State} (h : startBit k s = .next t) :
    t = { s with pu22Inject := t.pu22Inject, dataDir := t.dataDir, dataOut := t.dataOut,
                 delayCnt := s.params.tBitUs - 1, sym := s.sym + 1 } ∧ s.sym.toNat < 44 := by
  cases hb : bitAt k s.sym.toNat with
  | none => rw [startBit_fault hb] at h; cases h
  | some b =>
    rw [startBit_eq hb, Host.Outcome.next.injEq] at h
    have hlt : s.sym.toNat < 44 := by
      by_contra hc
      rw [bitAt_none (fun h => hc h.2)] at hb
      cases hb
    subst h
    refine ⟨?_, hlt⟩
    simp only [loadBitPeriod]
    split
    · rfl
    · split <;> rfl

/-- A `SEND` state writes only the controller's position and delay, the output line and the passthrough flag (rules R115 to R120). -/
theorem send_frame {r : Region} {s t : State} (h : send r s = .next t) :
    t = { s with pu22Inject := t.pu22Inject, dataDir := t.dataDir, dataOut := t.dataOut, delayCnt := t.delayCnt, sym := t.sym,
                 round := t.round, fsm := t.fsm } := by
  rw [send_eq_next] at h
  rcases h with ⟨-, rfl⟩ | ⟨-, -, h⟩ | ⟨-, -, h⟩ | ⟨-, -, rfl⟩
  · rfl
  · cases r
    · simp only [afterPause, beginString, runRegion_eq_startBit] at h
      rw [(startBit_frame h).1]
    · simp only [afterPause, beginString, runRegion_eq_startBit] at h
      rw [(startBit_frame h).1]
    · simp only [afterPause, beginString, runRegion_eq_startBit] at h
      split at h
      · rw [(startBit_frame h).1]
      · rw [Host.Outcome.next.injEq] at h
        subst h
        rfl
  · rw [runRegion_eq_startBit] at h
    rw [(startBit_frame h).1]
  · unfold afterBits finishInjection startPause
    split <;> rfl

/-- A controller step writes only the controller's own registers and the pins; it clears `reqPending` only by going to `START`. -/
theorem runFsmRow_frame {r : FsmRow} {s t : State} (h : runFsmRow r s = .next t) :
    t = { s with reqPending := t.reqPending, injectionRunning := t.injectionRunning, pu22Inject := t.pu22Inject, fsm := t.fsm,
                 round := t.round, sym := t.sym, delayCnt := t.delayCnt, dataDir := t.dataDir, dataOut := t.dataOut,
                 gateDir := t.gateDir, gateOut := t.gateOut, reported := t.reported } ∧
    (t.reqPending = s.reqPending ∨ (r = .waitReq ∧ s.reqPending = true ∧ t.reqPending = false ∧ t.fsm = 2)) := by
  cases r <;> simp only [runFsmRow] at h
  case waitMode =>
    unfold execWaitMode at h
    split at h <;> rw [Host.Outcome.next.injEq] at h <;> subst h <;> exact ⟨rfl, .inl rfl⟩
  case waitReq =>
    unfold execWaitReq at h
    split at h <;> rw [Host.Outcome.next.injEq] at h <;> subst h
    · exact ⟨rfl, .inr ⟨rfl, by assumption, rfl, rfl⟩⟩
    · exact ⟨rfl, .inl rfl⟩
  case start =>
    simp only [execStart, Host.Outcome.next.injEq] at h
    subst h
    unfold takeGate
    split <;> exact ⟨rfl, .inl rfl⟩
  case sendE => have := send_frame h; exact ⟨by rw [this], .inl (by rw [this])⟩
  case sendA => have := send_frame h; exact ⟨by rw [this], .inl (by rw [this])⟩
  case sendI => have := send_frame h; exact ⟨by rw [this], .inl (by rw [this])⟩
  case endInjection =>
    simp only [execEndInjection, Host.Outcome.next.injEq] at h
    subst h
    unfold releaseGate
    split <;> exact ⟨rfl, .inl rfl⟩
  case reserved7 =>
    simp only [execFsmReserved7, Host.Outcome.next.injEq] at h
    subst h
    exact ⟨rfl, .inl rfl⟩

end Sys2Proof.Machine
end

