-- ==== Sys2Proof/Laws/Packet.lean ====
section
/-! SUPPORT. The packet word and its bytes, and what each row of the packet table says of the bytes. -/

namespace Sys2Proof

theorem pktByte_getLsbD (p : PacketWord) (k j : Nat) :
    (pktByte p k).getLsbD j = (decide (j < 8) && p.getLsbD (8 * k + j)) := by
  simp [pktByte, BitVec.getLsbD_extractLsb']

theorem pktByte_and (p q : PacketWord) (k : Nat) : pktByte (p &&& q) k = pktByte p k &&& pktByte q k := by
  ext j hj
  simp [pktByte, BitVec.getElem_extractLsb']

/-- Packet words with equal bytes are equal. -/
theorem packetWord_ext {p q : PacketWord} (h : ∀ k, k < 12 → pktByte p k = pktByte q k) : p = q := by
  apply BitVec.eq_of_getLsbD_eq
  intro i hi
  have hk : i / 8 < 12 := by omega
  have := congrArg (fun b => b.getLsbD (i % 8)) (h (i / 8) hk)
  simp only [pktByte_getLsbD] at this
  have e : 8 * (i / 8) + i % 8 = i := by omega
  simpa [e, Nat.mod_lt] using this

/-- A row of the packet table selects by bytes. -/
theorem selects_iff_bytes (mask value p : PacketWord) :
    selects mask value p = true ↔ ∀ k, k < 12 → pktByte p k &&& pktByte mask k = pktByte value k := by
  constructor
  · intro h k _
    rw [← pktByte_and]
    have : p &&& mask = value := by simpa [selects] using h
    rw [this]
  · intro h
    have : p &&& mask = value := packetWord_ext fun k hk => by rw [pktByte_and]; exact h k hk
    simp [selects, this]

/-- A statement about the twelve byte indices, spelled out. -/
theorem forall_lt_twelve (P : Nat → Prop) :
    (∀ k, k < 12 → P k) ↔
      (P 0 ∧ P 1 ∧ P 2 ∧ P 3 ∧ P 4 ∧ P 5 ∧ P 6 ∧ P 7 ∧ P 8 ∧ P 9 ∧ P 10 ∧ P 11) := by
  constructor
  · intro h
    refine ⟨h 0 ?_, h 1 ?_, h 2 ?_, h 3 ?_, h 4 ?_, h 5 ?_, h 6 ?_, h 7 ?_, h 8 ?_, h 9 ?_, h 10 ?_, h 11 ?_⟩ <;> omega
  · rintro ⟨h0, h1, h2, h3, h4, h5, h6, h7, h8, h9, h10, h11⟩ k hk
    interval_cases k <;> assumption

/-- The bytes a mask or a match of the table tests: bytes 0 to 3 and 6. -/
theorem selects_iff_tested (mask value p : PacketWord)
    (hm : ∀ k, k < 12 → k = 0 ∨ k = 1 ∨ k = 2 ∨ k = 3 ∨ k = 6 ∨ (pktByte mask k = 0 ∧ pktByte value k = 0)) :
    selects mask value p = true ↔
      (pktByte p 0 &&& pktByte mask 0 = pktByte value 0 ∧ pktByte p 1 &&& pktByte mask 1 = pktByte value 1 ∧
       pktByte p 2 &&& pktByte mask 2 = pktByte value 2 ∧ pktByte p 3 &&& pktByte mask 3 = pktByte value 3 ∧
       pktByte p 6 &&& pktByte mask 6 = pktByte value 6) := by
  rw [selects_iff_bytes]
  constructor
  · intro h
    exact ⟨h 0 (by omega), h 1 (by omega), h 2 (by omega), h 3 (by omega), h 6 (by omega)⟩
  · rintro ⟨h0, h1, h2, h3, h6⟩ k hk
    rcases hm k hk with rfl | rfl | rfl | rfl | rfl | ⟨e, e'⟩
    · exact h0
    · exact h1
    · exact h2
    · exact h3
    · exact h6
    · rw [e, e']; simp

theorem byte_and_ff (b : Byte) : b &&& 0xFF = b := by
  revert b; decide

theorem byte_and_zero_eq (b : Byte) : (b &&& 0x00 = 0x00) ↔ True := by
  revert b; decide

/-- The aligned blocks of `b3` that the masks 0xFE, 0xF8, 0xE0 and 0xC0 select (rule R66). -/
theorem byte3_blocks (b : Byte) :
    ((b &&& 0xFE = 0x00) ↔ b.toNat ≤ 0x01) ∧ ((b &&& 0xF8 = 0x98) ↔ (0x98 ≤ b.toNat ∧ b.toNat ≤ 0x9F)) ∧
    ((b &&& 0xE0 = 0xA0) ↔ (0xA0 ≤ b.toNat ∧ b.toNat ≤ 0xBF)) ∧ ((b &&& 0xC0 = 0xC0) ↔ 0xC0 ≤ b.toNat) := by
  revert b; decide +kernel

/-- Byte `k` of a number given by its bytes. -/
theorem leValue_div_mod (bs : List Byte) (k : Nat) : leValue bs / 2 ^ (8 * k) % 256 = (bs.getD k 0).toNat := by
  induction bs generalizing k with
  | nil => simp [leValue]
  | cons b bs ih =>
    have hb : b.toNat < 256 := b.isLt
    cases k with
    | zero => simp [leValue]; omega
    | succ k =>
      have e : 2 ^ (8 * (k + 1)) = 256 * 2 ^ (8 * k) := by rw [Nat.mul_succ, Nat.pow_add]; omega
      have d : leValue (b :: bs) / 256 = leValue bs := by simp [leValue]; omega
      rw [e, ← Nat.div_div_eq_div_mul, d, ih, List.getD_cons_succ]

theorem leValue_lt (bs : List Byte) : leValue bs < 2 ^ (8 * bs.length) := by
  induction bs with
  | nil => simp [leValue]
  | cons b bs ih =>
    have hb : b.toNat < 256 := b.isLt
    have e : 2 ^ (8 * (bs.length + 1)) = 256 * 2 ^ (8 * bs.length) := by rw [Nat.mul_succ, Nat.pow_add]; omega
    simp only [leValue, List.length_cons, e]
    omega

/-- Byte `k` of a packet word given by its bytes (rule R41). -/
theorem pktByte_packetOfBytes (bs : List Byte) {k : Nat} (hk : k < 12) :
    pktByte (packetOfBytes bs) k = bs.getD k 0 := by
  apply BitVec.eq_of_toNat_eq
  have h96 : leValue bs % 2 ^ 96 / 2 ^ (8 * k) % 256 = leValue bs / 2 ^ (8 * k) % 256 := by
    interval_cases k <;> omega
  simp only [pktByte, packetOfBytes, BitVec.extractLsb'_toNat, BitVec.toNat_ofNat, Nat.shiftRight_eq_div_pow]
  rw [← leValue_div_mod bs k, ← h96]

end Sys2Proof

namespace Sys2Proof.Machine

/-- Byte `k` of the packet word is byte `k` of the buffer (rule R41). -/
theorem pktByte_packetWord (m : Memory) {k : Nat} (hk : k < 12) : pktByte (packetWord m) k = Memory.read m k := by
  rw [packetWord, pktByte_packetOfBytes _ hk]
  simp [Config.pktBytes, List.getD_eq_getElem?_getD, hk]

/-- The buffer a packet word is stored as reads as the packet's bytes (rule R41). -/
theorem read_packetMemory (p : PacketWord) {k : Nat} (hk : k < 12) : Memory.read (packetMemory p) k = pktByte p k := by
  have hl : (packetBytes Config.pktBytes p).length = 12 := by simp [packetBytes, Config.pktBytes]
  rw [packetMemory, Memory.read_storeBytesFrom rfl (by rw [hl]; decide), if_pos (by omega)]
  simp [packetBytes, Config.pktBytes, List.getD_eq_getElem?_getD, hk]

theorem wf_packetMemory (p : PacketWord) : Memory.wf (packetMemory p) = true := by
  have hl : (packetBytes Config.pktBytes p).length = 12 := by simp [packetBytes, Config.pktBytes]
  exact Memory.wf_storeBytesFrom rfl (by rw [hl]; decide)

/-- A packet word stored and assembled again is the same word. -/
theorem packetWord_packetMemory (p : PacketWord) : packetWord (packetMemory p) = p :=
  packetWord_ext fun k hk => by rw [pktByte_packetWord _ hk, read_packetMemory _ hk]

end Sys2Proof.Machine
end

