-- ==== Sys2Proof/Laws/Decode.lean ====
section
/-! SUPPORT. Bytes and numbers, the strobes of an input vector, and the rows of the packet table by bytes. -/

namespace Sys2Proof

@[simp] theorem leBytes_length (n v : Nat) : (leBytes n v).length = n := by
  induction n generalizing v with
  | zero => rfl
  | succ n ih => simp [leBytes, ih]

/-- The number of its own bytes. -/
theorem leValue_leBytes (n v : Nat) (h : v < 2 ^ (8 * n)) : leValue (leBytes n v) = v := by
  induction n generalizing v with
  | zero => simp at h; simp [leBytes, leValue, h]
  | succ n ih =>
    have e : 2 ^ (8 * (n + 1)) = 256 * 2 ^ (8 * n) := by rw [Nat.mul_succ, Nat.pow_add]; omega
    rw [e] at h
    have h2 : v / 256 < 2 ^ (8 * n) := by omega
    simp only [leBytes, leValue, ih _ h2, BitVec.toNat_ofNat]
    omega

/-- The strobes are single bits (rules R60, R61). -/
theorem iv_strobes (v : InputVector) :
    ivIsReset v = v.getLsbD 5 ∧ ivIsSqck v = (!v.getLsbD 5 && v.getLsbD 1) ∧
    ivIsGate v = (!v.getLsbD 5 && v.getLsbD 3) ∧ ivIsTick v = (!v.getLsbD 5 && v.getLsbD 4) ∧
    ivIsNop v = (!v.getLsbD 5 && !v.getLsbD 4 && !v.getLsbD 3 && !v.getLsbD 1) := by
  revert v; decide

/-- With `rst` the cycle is `RESET` alone (rule R62). -/
theorem decodeIV6_reset {o : CoincidentOrder} {v : InputVector} (h5 : v.getLsbD 5 = true) : decodeIV6 o v = [.reset] := by
  unfold decodeIV6
  rw [if_pos ((iv_strobes v).1.trans h5)]

/-- With no strobe the cycle is `NOP` (rule R63). -/
theorem decodeIV6_nop {o : CoincidentOrder} {v : InputVector} (h5 : v.getLsbD 5 = false) (h4 : v.getLsbD 4 = false)
    (h3 : v.getLsbD 3 = false) (h1 : v.getLsbD 1 = false) : decodeIV6 o v = [.nop] := by
  obtain ⟨hr, -, -, -, hn⟩ := iv_strobes v
  unfold decodeIV6
  rw [if_neg (by rw [hr, h5]; decide), if_pos (by rw [hn, h5, h4, h3, h1]; decide)]

/-- Without `rst` the cycle performs nothing but the operations of its strobes, or `NOP` (rules R61, R62). -/
theorem mem_decodeIV6 {o : CoincidentOrder} {v : InputVector} {i : Instr} (h5 : v.getLsbD 5 = false) (h : i ∈ decodeIV6 o v) :
    i = .nop ∨ (v.getLsbD 1 = true ∧ i = .sqckRise (v.getLsbD 0)) ∨ (v.getLsbD 3 = true ∧ i = .gateEdge (v.getLsbD 2)) ∨
      (v.getLsbD 4 = true ∧ i = .usTick) := by
  obtain ⟨hr, hs, hg, ht, -⟩ := iv_strobes v
  unfold decodeIV6 at h
  rw [if_neg (by rw [hr, h5]; decide)] at h
  split at h
  · exact .inl (by simpa using h)
  · refine .inr ?_
    rw [h5] at hs hg ht
    cases o <;> simp only [ivSqckOps, ivGateOps, ivTickOps, hs, hg, ht, Bool.not_false, Bool.true_and, List.mem_append] at h <;>
      split_ifs at h <;> simp_all [ivSample, ivLevel] <;> tauto

/-- A row of the packet table, by the bytes of its mask and match. -/
theorem selects_eq_bytes (mask value p : PacketWord) (m0 m1 m2 m3 m6 v0 v1 v2 v3 v6 : Byte)
    (h : (pktByte mask 0 = m0 ∧ pktByte mask 1 = m1 ∧ pktByte mask 2 = m2 ∧ pktByte mask 3 = m3 ∧ pktByte mask 6 = m6) ∧
      (pktByte value 0 = v0 ∧ pktByte value 1 = v1 ∧ pktByte value 2 = v2 ∧ pktByte value 3 = v3 ∧ pktByte value 6 = v6) ∧
      (∀ k, k < 12 → k = 0 ∨ k = 1 ∨ k = 2 ∨ k = 3 ∨ k = 6 ∨ (pktByte mask k = 0 ∧ pktByte value k = 0))) :
    selects mask value p = true ↔
      (pktByte p 0 &&& m0 = v0 ∧ pktByte p 1 &&& m1 = v1 ∧ pktByte p 2 &&& m2 = v2 ∧ pktByte p 3 &&& m3 = v3 ∧
       pktByte p 6 &&& m6 = v6) := by
  obtain ⟨⟨rfl, rfl, rfl, rfl, rfl⟩, ⟨rfl, rfl, rfl, rfl, rfl⟩, hm⟩ := h
  exact selects_iff_tested mask value p hm

/-- The rows for `b2` in 0xA0, 0xA1, 0xA2 (rule R66), by bytes. -/
theorem selects_rowA (p : PacketWord) :
    (selects 0x0000000000FF000000FFFFD0 0x000000000000000000A00040 p = true ↔ isARow 0xA0 p = true) ∧
    (selects 0x0000000000FF000000FFFFD0 0x000000000000000000A10040 p = true ↔ isARow 0xA1 p = true) ∧
    (selects 0x0000000000FF000000FFFFD0 0x000000000000000000A20040 p = true ↔ isARow 0xA2 p = true) := by
  refine ⟨?_, ?_, ?_⟩
  · rw [selects_eq_bytes _ _ p 0xD0 0xFF 0xFF 0x00 0xFF 0x40 0x00 0xA0 0x00 0x00 (by decide)]
    simp only [byte_and_ff, byte_and_zero_eq, isARow, flagByte, guardBytes, Bool.and_eq_true, beq_iff_eq]
    tauto
  · rw [selects_eq_bytes _ _ p 0xD0 0xFF 0xFF 0x00 0xFF 0x40 0x00 0xA1 0x00 0x00 (by decide)]
    simp only [byte_and_ff, byte_and_zero_eq, isARow, flagByte, guardBytes, Bool.and_eq_true, beq_iff_eq]
    tauto
  · rw [selects_eq_bytes _ _ p 0xD0 0xFF 0xFF 0x00 0xFF 0x40 0x00 0xA2 0x00 0x00 (by decide)]
    simp only [byte_and_ff, byte_and_zero_eq, isARow, flagByte, guardBytes, Bool.and_eq_true, beq_iff_eq]
    tauto

/-- The two `PKT.SECONDARY` rows (rule R66), by bytes. -/
theorem selects_rowSecondary (p : PacketWord) :
    (selects 0x0000000000FF00000000FFD0 0x000000000000000000000040 p = true ↔
      (flagByte (pktByte p 0) && guardBytes p) = true) ∧
    (selects 0x0000000000FF00000000FFFF 0x000000000000000000000001 p = true ↔
      (pktByte p 0 == 0x01 && guardBytes p) = true) := by
  refine ⟨?_, ?_⟩
  · rw [selects_eq_bytes _ _ p 0xD0 0xFF 0x00 0x00 0xFF 0x40 0x00 0x00 0x00 0x00 (by decide)]
    simp only [byte_and_ff, byte_and_zero_eq, flagByte, guardBytes, Bool.and_eq_true, beq_iff_eq]
    tauto
  · rw [selects_eq_bytes _ _ p 0xFF 0xFF 0x00 0x00 0xFF 0x01 0x00 0x00 0x00 0x00 (by decide)]
    simp only [byte_and_ff, byte_and_zero_eq, guardBytes, Bool.and_eq_true, beq_iff_eq]
    tauto

/-- The row `PKT.PRIMARY.01.LO01` (rule R66) in both groupings, by bytes. -/
theorem selects_row01Lo01 (p : PacketWord) :
    (selects 0x0000000000FF0000FEFFFFD0 0x000000000000000000010040 p = true ↔ is01Row .guarded 0x00 0x01 p = true) ∧
    (selects (0x0000000000FF0000FEFFFFD0 &&& 0xFFFF0000) (0x000000000000000000010040 &&& 0xFFFF0000) p = true ↔
      is01Row .loose 0x00 0x01 p = true) := by
  have b3 : (pktByte p 3 &&& 0xFE = 0x00) ↔ byte3In 0x00 0x01 p = true := by
    rw [(byte3_blocks (pktByte p 3)).1]
    simp only [byte3In, Bool.and_eq_true, decide_eq_true_eq]
    have := (pktByte p 3).isLt
    omega
  refine ⟨?_, ?_⟩
  · rw [selects_eq_bytes _ _ p 0xD0 0xFF 0xFF 0xFE 0xFF 0x40 0x00 0x01 0x00 0x00 (by decide), b3]
    simp only [byte_and_ff, is01Row, guardedPrefix, flagByte, guardBytes, Bool.and_eq_true, beq_iff_eq]
    tauto
  · rw [selects_eq_bytes _ _ p 0x00 0x00 0xFF 0xFE 0x00 0x00 0x00 0x01 0x00 0x00 (by decide), b3]
    simp only [byte_and_ff, byte_and_zero_eq, is01Row, guardedPrefix, Bool.and_eq_true, beq_iff_eq]
    tauto

/-- The row `PKT.PRIMARY.01.LO2` (rule R66) in both groupings, by bytes. -/
theorem selects_row01Lo2 (p : PacketWord) :
    (selects 0x0000000000FF0000FFFFFFD0 0x000000000000000002010040 p = true ↔ is01Row .guarded 0x02 0x02 p = true) ∧
    (selects (0x0000000000FF0000FFFFFFD0 &&& 0xFFFF0000) (0x000000000000000002010040 &&& 0xFFFF0000) p = true ↔
      is01Row .loose 0x02 0x02 p = true) := by
  have b3 : (pktByte p 3 &&& 0xFF = 0x02) ↔ byte3In 0x02 0x02 p = true := by
    rw [byte_and_ff]
    simp only [byte3In, Bool.and_eq_true, decide_eq_true_eq]
    have := (pktByte p 3).isLt
    constructor <;> intro h <;> [subst_vars; skip] <;> first | (rw [h]; decide) | (apply BitVec.eq_of_toNat_eq; simp; omega)
  refine ⟨?_, ?_⟩
  · rw [selects_eq_bytes _ _ p 0xD0 0xFF 0xFF 0xFF 0xFF 0x40 0x00 0x01 0x02 0x00 (by decide), b3]
    simp only [byte_and_ff, is01Row, guardedPrefix, flagByte, guardBytes, Bool.and_eq_true, beq_iff_eq]
    tauto
  · rw [selects_eq_bytes _ _ p 0x00 0x00 0xFF 0xFF 0x00 0x00 0x00 0x01 0x02 0x00 (by decide), b3]
    simp only [byte_and_ff, byte_and_zero_eq, is01Row, guardedPrefix, Bool.and_eq_true, beq_iff_eq]
    tauto

/-- The row `PKT.PRIMARY.01.HI98` (rule R66) in both groupings, by bytes. -/
theorem selects_row01Hi98 (p : PacketWord) :
    (selects 0x0000000000FF0000F8FFFFD0 0x000000000000000098010040 p = true ↔ is01Row .guarded 0x98 0x9F p = true) ∧
    (selects (0x0000000000FF0000F8FFFFD0 &&& 0xFFFF0000) (0x000000000000000098010040 &&& 0xFFFF0000) p = true ↔
      is01Row .loose 0x98 0x9F p = true) := by
  have b3 : (pktByte p 3 &&& 0xF8 = 0x98) ↔ byte3In 0x98 0x9F p = true := by
    rw [(byte3_blocks (pktByte p 3)).2.1]
    simp only [byte3In, Bool.and_eq_true, decide_eq_true_eq]
  refine ⟨?_, ?_⟩
  · rw [selects_eq_bytes _ _ p 0xD0 0xFF 0xFF 0xF8 0xFF 0x40 0x00 0x01 0x98 0x00 (by decide), b3]
    simp only [byte_and_ff, is01Row, guardedPrefix, flagByte, guardBytes, Bool.and_eq_true, beq_iff_eq]
    tauto
  · rw [selects_eq_bytes _ _ p 0x00 0x00 0xFF 0xF8 0x00 0x00 0x00 0x01 0x98 0x00 (by decide), b3]
    simp only [byte_and_ff, byte_and_zero_eq, is01Row, guardedPrefix, Bool.and_eq_true, beq_iff_eq]
    tauto

/-- The row `PKT.PRIMARY.01.HIA0` (rule R66) in both groupings, by bytes. -/
theorem selects_row01HiA0 (p : PacketWord) :
    (selects 0x0000000000FF0000E0FFFFD0 0x0000000000000000A0010040 p = true ↔ is01Row .guarded 0xA0 0xBF p = true) ∧
    (selects (0x0000000000FF0000E0FFFFD0 &&& 0xFFFF0000) (0x0000000000000000A0010040 &&& 0xFFFF0000) p = true ↔
      is01Row .loose 0xA0 0xBF p = true) := by
  have b3 : (pktByte p 3 &&& 0xE0 = 0xA0) ↔ byte3In 0xA0 0xBF p = true := by
    rw [(byte3_blocks (pktByte p 3)).2.2.1]
    simp only [byte3In, Bool.and_eq_true, decide_eq_true_eq]
  refine ⟨?_, ?_⟩
  · rw [selects_eq_bytes _ _ p 0xD0 0xFF 0xFF 0xE0 0xFF 0x40 0x00 0x01 0xA0 0x00 (by decide), b3]
    simp only [byte_and_ff, is01Row, guardedPrefix, flagByte, guardBytes, Bool.and_eq_true, beq_iff_eq]
    tauto
  · rw [selects_eq_bytes _ _ p 0x00 0x00 0xFF 0xE0 0x00 0x00 0x00 0x01 0xA0 0x00 (by decide), b3]
    simp only [byte_and_ff, byte_and_zero_eq, is01Row, guardedPrefix, Bool.and_eq_true, beq_iff_eq]
    tauto

/-- The row `PKT.PRIMARY.01.HIC0` (rule R66) in both groupings, by bytes. -/
theorem selects_row01HiC0 (p : PacketWord) :
    (selects 0x0000000000FF0000C0FFFFD0 0x0000000000000000C0010040 p = true ↔ is01Row .guarded 0xC0 0xFF p = true) ∧
    (selects (0x0000000000FF0000C0FFFFD0 &&& 0xFFFF0000) (0x0000000000000000C0010040 &&& 0xFFFF0000) p = true ↔
      is01Row .loose 0xC0 0xFF p = true) := by
  have b3 : (pktByte p 3 &&& 0xC0 = 0xC0) ↔ byte3In 0xC0 0xFF p = true := by
    rw [(byte3_blocks (pktByte p 3)).2.2.2]
    simp only [byte3In, Bool.and_eq_true, decide_eq_true_eq]
    have := (pktByte p 3).isLt
    omega
  refine ⟨?_, ?_⟩
  · rw [selects_eq_bytes _ _ p 0xD0 0xFF 0xFF 0xC0 0xFF 0x40 0x00 0x01 0xC0 0x00 (by decide), b3]
    simp only [byte_and_ff, is01Row, guardedPrefix, flagByte, guardBytes, Bool.and_eq_true, beq_iff_eq]
    tauto
  · rw [selects_eq_bytes _ _ p 0x00 0x00 0xFF 0xC0 0x00 0x00 0x00 0x01 0xC0 0x00 (by decide), b3]
    simp only [byte_and_ff, byte_and_zero_eq, is01Row, guardedPrefix, Bool.and_eq_true, beq_iff_eq]
    tauto

/-- The first row of a list that fits, else `PKT.OTHER`. -/
def firstRow (rs : List PktPattern) (h : Bool) (p : PacketWord) : PktRow :=
  match rs.find? (fun r => r.fits h p) with
  | some r => r.row
  | none => .other

theorem pktRow_eq_firstRow (g : Grouping) (h : Bool) (p : PacketWord) : pktRow g h p = firstRow (pktTable g) h p := rfl

theorem firstRow_nil (h : Bool) (p : PacketWord) : firstRow [] h p = .other := rfl

/-- Trying one more row from the top. -/
theorem firstRow_cons (r : PktPattern) (rs : List PktPattern) (h : Bool) (p : PacketWord) :
    firstRow (r :: rs) h p = if r.fits h p then r.row else firstRow rs h p := by
  unfold firstRow
  rw [List.find?_cons]
  cases r.fits h p <;> rfl

/-- The rows of the packet table tried from the top (rule R66), by bytes. -/
theorem pktRow_eq (g : Grouping) (h : Bool) (p : PacketWord) :
    pktRow g h p =
      if isARow 0xA0 p then .primaryA0
      else if isARow 0xA1 p then .primaryA1
      else if isARow 0xA2 p then .primaryA2
      else if is01Row g 0x00 0x01 p then .primary01Lo01
      else if is01Row g 0x02 0x02 p then .primary01Lo2
      else if is01Row g 0x98 0x9F p then .primary01Hi98
      else if is01Row g 0xA0 0xBF p then .primary01HiA0
      else if is01Row g 0xC0 0xFF p then .primary01HiC0
      else if h && (flagByte (pktByte p 0) && guardBytes p) then .secondaryFlag
      else if h && (pktByte p 0 == 0x01 && guardBytes p) then .secondary01
      else .other := by
  have hA := selects_rowA p
  have h1 := selects_row01Lo01 p
  have h2 := selects_row01Lo2 p
  have h3 := selects_row01Hi98 p
  have h4 := selects_row01HiA0 p
  have h5 := selects_row01HiC0 p
  have hS := selects_rowSecondary p
  simp only [← Bool.eq_iff_iff] at hA h1 h2 h3 h4 h5 hS
  rw [← hA.1, ← hA.2.1, ← hA.2.2, ← hS.1, ← hS.2]
  rw [pktRow_eq_firstRow]
  cases g
  · rw [← h1.1, ← h2.1, ← h3.1, ← h4.1, ← h5.1]
    simp only [pktTable, point01Rows, List.cons_append, List.nil_append, firstRow_cons, firstRow_nil, PktPattern.fits, Bool.not_false,
      Bool.true_or, Bool.and_true, Bool.not_true, Bool.false_or, Bool.and_comm h]
  · rw [← h1.2, ← h2.2, ← h3.2, ← h4.2, ← h5.2]
    simp only [pktTable, point01Rows, loosenRow, List.map_cons, List.map_nil, List.cons_append, List.nil_append, firstRow_cons,
      firstRow_nil, PktPattern.fits, Bool.not_false, Bool.true_or, Bool.and_true, Bool.not_true, Bool.false_or, Bool.and_comm h]

end Sys2Proof
end

