-- ==== Sys2Proof/Laws/PerInstr.lean ====
section
/-! SUPPORT. A law of every operation, one lemma per constructor: the word of an operation is one whole word of its format. -/

namespace Sys2Proof.Laws.EncodedLength

/-- Encodings have the fixed length of their format (rule R71), and the value fits the format's bits. -/
def Statement (i : Instr) : Prop := (encode i).length = i.format.byteCount ∧ encodeValue i < 2 ^ i.format.bits

theorem reset : Statement .reset := by unfold Statement; decide
theorem nop : Statement .nop := by unfold Statement; decide
theorem sqckRise (d : Bool) : Statement (.sqckRise d) := by cases d <;> (unfold Statement; decide)
theorem gateEdge (l : Bool) : Statement (.gateEdge l) := by cases l <;> (unfold Statement; decide)
theorem usTick : Statement .usTick := by unfold Statement; decide
theorem pktPrimaryA0 (p : PacketWord) : Statement (.pktPrimaryA0 p) := ⟨leBytes_length _ _, p.isLt⟩
theorem pktPrimaryA1 (p : PacketWord) : Statement (.pktPrimaryA1 p) := ⟨leBytes_length _ _, p.isLt⟩
theorem pktPrimaryA2 (p : PacketWord) : Statement (.pktPrimaryA2 p) := ⟨leBytes_length _ _, p.isLt⟩
theorem pktPrimary01Lo01 (p : PacketWord) : Statement (.pktPrimary01Lo01 p) := ⟨leBytes_length _ _, p.isLt⟩
theorem pktPrimary01Lo2 (p : PacketWord) : Statement (.pktPrimary01Lo2 p) := ⟨leBytes_length _ _, p.isLt⟩
theorem pktPrimary01Hi98 (p : PacketWord) : Statement (.pktPrimary01Hi98 p) := ⟨leBytes_length _ _, p.isLt⟩
theorem pktPrimary01HiA0 (p : PacketWord) : Statement (.pktPrimary01HiA0 p) := ⟨leBytes_length _ _, p.isLt⟩
theorem pktPrimary01HiC0 (p : PacketWord) : Statement (.pktPrimary01HiC0 p) := ⟨leBytes_length _ _, p.isLt⟩
theorem pktSecondaryFlag (p : PacketWord) : Statement (.pktSecondaryFlag p) := ⟨leBytes_length _ _, p.isLt⟩
theorem pktSecondary01 (p : PacketWord) : Statement (.pktSecondary01 p) := ⟨leBytes_length _ _, p.isLt⟩
theorem pktOther (p : PacketWord) : Statement (.pktOther p) := ⟨leBytes_length _ _, p.isLt⟩
theorem waitMode : Statement .waitMode := by unfold Statement; decide
theorem waitReq : Statement .waitReq := by unfold Statement; decide
theorem start : Statement .start := by unfold Statement; decide
theorem sendE : Statement .sendE := by unfold Statement; decide
theorem sendA : Statement .sendA := by unfold Statement; decide
theorem sendI : Statement .sendI := by unfold Statement; decide
theorem endInjection : Statement .endInjection := by unfold Statement; decide
theorem fsmReserved7 : Statement .fsmReserved7 := by unfold Statement; decide
theorem sym0 : Statement .sym0 := by unfold Statement; decide
theorem sym1 : Statement .sym1 := by unfold Statement; decide
theorem strScee : Statement .strScee := by unfold Statement; decide
theorem strScea : Statement .strScea := by unfold Statement; decide
theorem strScei : Statement .strScei := by unfold Statement; decide

end Sys2Proof.Laws.EncodedLength
end

