-- ==== Sys2Proof/Tests/Slice0.lean ====
section
/-! SUPPORT. Tests of the model on values taken from the spec (spec/95_test_vectors.md, groups V1 to V6, and the examples of the rules),
and a named witness for every statement that has hypotheses. -/

namespace Sys2Proof.Tests

open Sys2Proof Sys2Proof.Machine Sys2Proof.Claims

/-- What an observation of the next state gives; `none` where the operation stops. -/
def see {α : Type} (f : State → α) : Result → Option α
  | .next t => some (f t)
  | .fault _ => none
  | .refused _ => none

/-- The fault an operation answers. -/
def faultOf : Result → Option Fault
  | .next _ => none
  | .fault f => some f
  | .refused _ => none

/-- The packet `41 00 A0 ..` of the vectors. -/
def leadIn : PacketWord := 0xA00041

/-- The default parameters with `T_BIT_US` = 2 and `T_STRING_US` = 3 (V5). -/
def smallParams : Params := { Params.default with tBitUs := 2, tStringUs := 3 }

/-- A finalised state with the controller at the given code. -/
def atCode (c : BitVec 3) : State := { State.reset with modeDetected := true, fsm := c }

/-- A complete packet about to be classified. -/
def holding (p : PacketWord) (h : BitVec 4) : State := { State.reset with pkt := packetMemory p, hyst := h }

/-! ## Well-formedness -/

/-- A packet class refuses a packet of another class: flag byte, guard bytes, `b2`, each block of `b3`, the condition on `hyst`, and the
priority of the primary rows over the secondary and of both over the default. -/
theorem test_wf_refuses_wrong_packets :
    Instr.wf tableCtx (.pktPrimaryA0 0xA00051) = false ∧ Instr.wf tableCtx (.pktPrimaryA0 0xA00141) = false ∧
    Instr.wf tableCtx (.pktPrimaryA0 0x1000000A00041) = false ∧ Instr.wf tableCtx (.pktPrimaryA0 0xA10041) = false ∧
    Instr.wf tableCtx (.pktPrimaryA1 0xA00041) = false ∧ Instr.wf tableCtx (.pktPrimaryA2 0xA00041) = false ∧
    Instr.wf tableCtx (.pktPrimary01Lo01 0x02010041) = false ∧ Instr.wf tableCtx (.pktPrimary01Lo2 0x03010041) = false ∧
    Instr.wf tableCtx (.pktPrimary01Hi98 0x97010041) = false ∧ Instr.wf tableCtx (.pktPrimary01HiA0 0xC0010041) = false ∧
    Instr.wf tableCtx (.pktPrimary01HiC0 0xBF010041) = false ∧ Instr.wf tableCtx (.pktSecondaryFlag 0xA00041) = false ∧
    Instr.wf { tableCtx with hystPositive := false } (.pktSecondaryFlag 0xA30041) = false ∧
    Instr.wf tableCtx (.pktSecondary01 0x20050002) = false ∧ Instr.wf tableCtx (.pktSecondary01 0x20050101) = false ∧
    Instr.wf tableCtx (.pktOther 0xA00041) = false ∧ Instr.wf tableCtx (.pktOther 0x20050001) = false := by decide

/-- `RST` and `NOP` may not be combined, and each event stands at most once (rule R73). -/
theorem test_wf_refuses_lines :
    StimLine.wf (.plus .rst .tick) = false ∧ StimLine.wf (.plus .nop (.gate true)) = false ∧
    StimLine.wf (.plus (.sqck true) (.sqck false)) = false ∧ StimLine.wf (.plus (.gate true) (.gate true)) = false ∧
    StimLine.wf (.plus .tick .tick) = false ∧ StimProg.wf (.rep 3 (.line (.plus .tick .tick))) = false ∧
    StimLine.wf (.plus (.plus (.sqck true) (.gate false)) .tick) = true := by decide

/-! ## Decoding -/

/-- `IV6`: vectors of V1, with don't-care bits set in some. -/
theorem test_decode_iv6 :
    decode tableCtx .iv6 [0x20] = .ok [.reset] ∧ decode tableCtx .iv6 [0x3F] = .ok [.reset] ∧
    decode tableCtx .iv6 [0x00] = .ok [.nop] ∧ decode tableCtx .iv6 [0x05] = .ok [.nop] ∧
    decode tableCtx .iv6 [0x02] = .ok [.sqckRise false] ∧ decode tableCtx .iv6 [0x07] = .ok [.sqckRise true] ∧
    decode tableCtx .iv6 [0x08] = .ok [.gateEdge false] ∧ decode tableCtx .iv6 [0x0D] = .ok [.gateEdge true] ∧
    decode tableCtx .iv6 [0x10] = .ok [.usTick] ∧ decode tableCtx .iv6 [0x15] = .ok [.usTick] ∧
    decode tableCtx .iv6 [0x0A] = .ok [.sqckRise false, .gateEdge false] ∧
    decode tableCtx .iv6 [0x1E] = .ok [.sqckRise false, .gateEdge true, .usTick] ∧
    decode { tableCtx with order := .tgs } .iv6 [0x1E] = .ok [.usTick, .gateEdge true, .sqckRise false] ∧
    decode tableCtx .iv6 [0x40] = .error (.unusedBitsSet .iv6) ∧ decode tableCtx .iv6 [] = .error (.wrongLength .iv6 0) := by decide

/-- `PKT96`: a packet of every row, bytes `pkt[0]` first (packets of V3). -/
theorem test_decode_pkt96 :
    decode tableCtx .pkt96 [0x41, 0, 0xA0, 0, 0, 0, 0, 0, 0, 0, 0, 0] = .ok [.pktPrimaryA0 0xA00041] ∧
    decode tableCtx .pkt96 [0x41, 0, 0xA1, 0, 0, 0, 0, 0, 0, 0, 0, 0] = .ok [.pktPrimaryA1 0xA10041] ∧
    decode tableCtx .pkt96 [0x6F, 0, 0xA2, 0x55, 0x12, 0x34, 0, 0x99, 0x88, 0x77, 0x66, 0x55] =
      .ok [.pktPrimaryA2 0x556677889900341255A2006F] ∧
    decode tableCtx .pkt96 [0x41, 0, 0x01, 0x00, 0, 0, 0, 0, 0, 0, 0, 0] = .ok [.pktPrimary01Lo01 0x00010041] ∧
    decode tableCtx .pkt96 [0x41, 0, 0x01, 0x02, 0, 0, 0, 0, 0, 0, 0, 0] = .ok [.pktPrimary01Lo2 0x02010041] ∧
    decode tableCtx .pkt96 [0x41, 0, 0x01, 0x98, 0, 0, 0, 0, 0, 0, 0, 0] = .ok [.pktPrimary01Hi98 0x98010041] ∧
    decode tableCtx .pkt96 [0x41, 0, 0x01, 0xA0, 0, 0, 0, 0, 0, 0, 0, 0] = .ok [.pktPrimary01HiA0 0xA0010041] ∧
    decode tableCtx .pkt96 [0x41, 0, 0x01, 0xFF, 0, 0, 0, 0, 0, 0, 0, 0] = .ok [.pktPrimary01HiC0 0xFF010041] ∧
    decode tableCtx .pkt96 [0x41, 0, 0xA3, 0, 0, 0, 0, 0, 0, 0, 0, 0] = .ok [.pktSecondaryFlag 0xA30041] ∧
    decode tableCtx .pkt96 [0x01, 0, 0x05, 0x20, 0, 0, 0, 0, 0, 0, 0, 0] = .ok [.pktSecondary01 0x20050001] ∧
    decode tableCtx .pkt96 [0x51, 0, 0xA0, 0, 0, 0, 0, 0, 0, 0, 0, 0] = .ok [.pktOther 0xA00051] := by decide

/-- `PKT96`: the corners of V3 (rows 9, 12, 15, 17, 18, 22, 23) and the loose grouping of decision D7. -/
theorem test_decode_pkt96_corners :
    pktClass .guarded false 0xA00001 = .other ∧ pktClass .guarded true 0xA30041 = .secondary ∧
    pktClass .guarded true 0x1000000A00041 = .other ∧ pktClass .guarded false 0x97010041 = .other ∧
    pktClass .guarded true 0x97010041 = .secondary ∧ pktClass .guarded false 0x03010041 = .other ∧
    pktClass .guarded false 0x80010041 = .other ∧ pktClass .guarded false 0x98010001 = .other ∧
    pktClass .loose false 0x98010001 = .primary ∧ decodePkt96 .loose false 0x98010001 = .pktPrimary01Hi98 0x98010001 := by decide

/-- `FSM3` and `SYM1`: the codes of rules R67 and R68. -/
theorem test_decode_codes :
    decode tableCtx .fsm3 [0b000] = .ok [.waitMode] ∧ decode tableCtx .fsm3 [0b001] = .ok [.waitReq] ∧
    decode tableCtx .fsm3 [0b010] = .ok [.start] ∧ decode tableCtx .fsm3 [0b011] = .ok [.sendE] ∧
    decode tableCtx .fsm3 [0b100] = .ok [.sendA] ∧ decode tableCtx .fsm3 [0b101] = .ok [.sendI] ∧
    decode tableCtx .fsm3 [0b110] = .ok [.endInjection] ∧ decode tableCtx .fsm3 [0b111] = .ok [.fsmReserved7] ∧
    decode tableCtx .sym1 [0] = .ok [.sym0] ∧ decode tableCtx .sym1 [1] = .ok [.sym1] ∧
    decode tableCtx .sym1 [2] = .error (.unusedBitsSet .sym1) ∧ decode tableCtx .fsm3 [8] = .error (.unusedBitsSet .fsm3) := by decide

/-- `STR44`: the ROM bytes of V6; the padding bits are ignored (U5); any other word is refused. -/
theorem test_decode_strings :
    decode tableCtx .str44 [0x59, 0xC9, 0x4B, 0x5D, 0xEA, 0x02] = .ok [.strScee] ∧
    decode tableCtx .str44 [0x59, 0xC9, 0x4B, 0x5D, 0xFA, 0x02] = .ok [.strScea] ∧
    decode tableCtx .str44 [0x59, 0xC9, 0x4B, 0x5D, 0xDA, 0x02] = .ok [.strScei] ∧
    decode tableCtx .str44 [0x59, 0xC9, 0x4B, 0x5D, 0xDA, 0xF2] = .ok [.strScei] ∧
    decode tableCtx .str44 [0x59, 0xC9, 0x4B, 0x5D, 0xCA, 0x02] = .error .notAnEncodedString := by decide

/-- Words numbered as spec/opcode_table.json numbers them. -/
theorem test_decode_table_words :
    decodeTableWord 8 0x20 = some .reset ∧ decodeTableWord 6 0x0C = some (.gateEdge true) ∧
    decodeTableWord 96 0x98010040 = some (.pktPrimary01Hi98 0x98010040) ∧ decodeTableWord 96 0 = some (.pktOther 0) ∧
    decodeTableWord 96 0x01 = some (.pktSecondary01 0x01) ∧ decodeTableWord 3 7 = some .fsmReserved7 ∧
    decodeTableWord 1 1 = some .sym1 ∧ decodeTableWord 48 0x02FA5D4BC959 = some .strScea ∧ decodeTableWord 2 1 = none := by decide

/-! ## Placing a word, and the step -/

/-- The next step performs the placed word: a reset, a sample, a packet of three classes, a controller state, a symbol, a string. -/
theorem test_placed_words_run :
    see (fun t => t.usCount) (step (({ State.reset with usCount := 5 } : State).withFetchWord 8 0x20)) = some 0 ∧
    see (fun t => (t.bitPos, t.byteAcc)) (step (State.reset.withFetchWord 8 0x03)) = some (1, 1) ∧
    see (fun t => (t.hyst, t.pktPos, packetWord t.pkt)) (step (State.reset.withFetchWord 96 0xA00040)) = some (1, 0, 0xA00040) ∧
    see (fun t => t.hyst) (step (State.reset.withFetchWord 96 0x40)) = some 2 ∧
    see (fun t => t.hyst) (step (State.reset.withFetchWord 96 0)) = some 0 ∧
    see (fun t => (t.fsm, t.dataDir)) (step (State.reset.withFetchWord 3 2)) = some (3, true) ∧
    see (fun t => (t.dataDir, t.sym)) (step (State.reset.withFetchWord 1 0)) = some (true, 2) ∧
    see (fun t => (t.fsm, t.sym, t.delayCnt)) (step (State.reset.withFetchWord 48 0x02FA5D4BC959)) = some (4, 1, 3999) := by decide

/-- V1, coincidence: vector 0x1B from reset; the sample is stamped with the time of before the tick. -/
theorem test_coincident_events :
    see (fun t => (t.usCount, t.lastTs, t.bitPos, t.byteAcc, t.lowEdges))
      (step { State.reset with stimulus := [0x1B] }) = some (1, 0, 1, 0x01, 1) := by decide

/-- V1: 0x3F resets whatever the other bits are; 0x05 is `NOP`. -/
theorem test_reset_and_nop :
    step { atCode 6 with stimulus := [0x3F], hyst := 9, dataDir := true } = .next State.reset ∧
    step { atCode 6 with stimulus := [0x05], hyst := 9 } = .next { atCode 6 with hyst := 9 } := ⟨rfl, rfl⟩

/-- U7: parameters with a zero bit period are refused. -/
theorem test_zero_bit_period_is_refused :
    step { State.reset with params := { Params.default with tBitUs := 0 } } = .refused .unsupportedParameters := rfl

/-- The stimulus assembly of rule R73: gate pairs, a packet with gaps, repeated coincident events. -/
theorem test_assembly :
    assemble (.gates 2) = [0x08, 0x0C, 0x08, 0x0C] ∧ (assemble (.pktg 1 leadIn)).take 4 = [0x10, 0x03, 0x10, 0x02] ∧
    assemble (.rep 2 (.line (.plus (.sqck true) .tick))) = [0x13, 0x13] := by decide

/-! ## The sampler (V2) -/

/-- V2 rows 4 and 5: a gap of 180 does not resynchronise, 181 does. -/
theorem test_gap_boundary :
    see (fun t => (t.lastTs, t.bitPos, t.byteAcc)) (exec (.sqckRise false) { State.reset with usCount := 180, bitPos := 3, byteAcc := 7 }) =
      some (180, 4, 0x07) ∧
    see (fun t => (t.lastTs, t.bitPos, t.byteAcc)) (exec (.sqckRise false) { State.reset with usCount := 181, bitPos := 3, byteAcc := 7 }) =
      some (181, 1, 0x00) := by decide

/-- V2 rows 8 and 9: the gap is taken modulo 2^32. -/
theorem test_gap_across_the_wrap :
    see (fun t => (t.bitPos, t.byteAcc, t.pktPos)) (exec (.sqckRise true)
      { State.reset with usCount := 50, lastTs := 0xFFFFFF9C, bitPos := 3, byteAcc := 5, pktPos := 2 }) = some (4, 0x0D, 2) ∧
    see (fun t => (t.bitPos, t.byteAcc, t.pktPos)) (exec (.sqckRise true)
      { State.reset with usCount := 81, lastTs := 0xFFFFFF9C, bitPos := 3, byteAcc := 5, pktPos := 2 }) = some (1, 0x01, 0) := by decide

/-! ## The detector (V3) -/

/-- V3 rows 1, 12, 26, 33, 34: every class on a whole packet. -/
theorem test_classify :
    see (fun t => t.hyst) (classify (holding leadIn 0)) = some 1 ∧ see (fun t => t.hyst) (classify (holding 0xA30041 4)) = some 5 ∧
    see (fun t => t.hyst) (classify (holding 0x20050001 3)) = some 4 ∧ see (fun t => t.hyst) (classify (holding 0 0)) = some 0 ∧
    see (fun t => t.hyst) (classify (holding 0xFFFFFFFFFFFFFFFFFFFFFFFF 13)) = some 12 := by decide

/-- V3 rows 37 to 41: the threshold with both flags, and a secondary packet as the fourteenth. -/
theorem test_threshold :
    see (fun t => (t.hyst, t.reqPending)) (classify (holding leadIn 13)) = some (11, true) ∧
    see (fun t => (t.hyst, t.reqPending)) (classify { holding leadIn 13 with reqPending := true }) = some (11, true) ∧
    see (fun t => (t.hyst, t.reqPending)) (classify { holding leadIn 13 with injectionRunning := true }) = some (11, false) ∧
    see (fun t => (t.hyst, t.reqPending)) (classify { holding leadIn 13 with injectionRunning := true, reqPending := true }) =
      some (11, true) ∧
    see (fun t => (t.hyst, t.reqPending)) (classify (holding 0x330001 13)) = some (11, true) := by decide

/-! ## The mode detector (V4) -/

/-- V4 rows 1 to 3, 5 and 6: the decision at tick 1 000 000, the edge in the finalising cycle, the late edge. -/
theorem test_mode_decision :
    see (fun t => (t.modeDetected, t.fsm)) (exec .usTick { State.reset with usCount := 999998 }) = some (false, 0) ∧
    see (fun t => (t.modeDetected, t.pu22Mode, t.fsm)) (exec .usTick { State.reset with usCount := 999999, lowEdges := 100 }) =
      some (true, false, 1) ∧
    see (fun t => (t.modeDetected, t.pu22Mode, t.fsm)) (exec .usTick { State.reset with usCount := 999999, lowEdges := 101 }) =
      some (true, true, 1) ∧
    see (fun t => (t.lowEdges, t.pu22Mode)) (step { State.reset with usCount := 999999, lowEdges := 100, stimulus := [0x18] }) =
      some (101, true) ∧
    see (fun t => (t.lowEdges, t.pu22Mode)) (exec (.gateEdge false) { atCode 1 with lowEdges := 100 }) = some (100, false) := by decide

/-- V4 row 7 and the passthrough lines: saturation at 127 with `EDGE_CNT_WIDTH` = 7, and the relay. -/
theorem test_gate_edges :
    see (fun t => t.lowEdges) (exec (.gateEdge false)
      { State.reset with params := { Params.default with edgeCntWidth := 7 }, lowEdges := 127 }) = some 127 ∧
    see (fun t => t.dataOut) (exec (.gateEdge true) { atCode 3 with pu22Mode := true, pu22Inject := true, dataDir := true }) =
      some true ∧
    see (fun t => t.dataOut) (exec (.gateEdge true) { atCode 3 with pu22Mode := true, dataDir := true }) = some false := by decide

/-! ## The controller (V5, with `T_BIT_US` = 2 and `T_STRING_US` = 3) -/

/-- V5, ticks 1000001 to 1000003 in both variants: the request, `START`, the first symbol. -/
theorem test_start_of_an_injection :
    see (fun t => (t.fsm, t.reqPending, t.injectionRunning)) (exec .usTick { atCode 1 with reqPending := true }) =
      some (2, false, false) ∧
    see (fun t => (t.fsm, t.injectionRunning, t.dataDir, t.dataOut, t.gateDir)) (exec .usTick (atCode 2)) =
      some (3, true, true, false, true) ∧
    see (fun t => (t.fsm, t.dataDir, t.gateDir)) (exec .usTick { atCode 2 with pu22Mode := true }) = some (3, true, false) ∧
    see (fun t => (t.sym, t.delayCnt, t.dataDir, t.pu22Inject)) (exec .usTick { atCode 3 with params := smallParams, dataDir := true }) =
      some (1, 1, false, false) ∧
    see (fun t => (t.sym, t.delayCnt, t.dataDir, t.pu22Inject))
      (exec .usTick { atCode 3 with params := smallParams, dataDir := true, pu22Mode := true }) = some (1, 1, true, true) := by decide

/-- V5 corner cases 4 and 5: the ends of the pauses of the third and of the sixth string. -/
theorem test_ends_of_pauses :
    see (fun t => (t.fsm, t.round, t.sym, t.delayCnt, t.dataDir)) (exec .usTick { atCode 5 with sym := 45, dataDir := true }) =
      some (3, 1, 1, 3999, false) ∧
    see (fun t => (t.fsm, t.sym, t.delayCnt, t.dataDir)) (exec .usTick { atCode 5 with round := 1, sym := 45, dataDir := true }) =
      some (6, 0, 0, true) := by decide

/-- V5 corner case 6, the `END` tick, and corner case 8. -/
theorem test_pause_end_and_reserved_code :
    see (fun t => (t.sym, t.delayCnt, t.dataDir)) (exec .usTick { atCode 3 with sym := 44, dataDir := true }) =
      some (45, 89999, true) ∧
    see (fun t => (t.fsm, t.dataDir, t.gateDir, t.injectionRunning))
      (exec .usTick { atCode 6 with dataDir := true, gateDir := true, injectionRunning := true }) = some (1, false, false, false) ∧
    see (fun t => (t.usCount, t.fsm, t.reported)) (exec .usTick (atCode 7)) = some (1, 7, some .reservedControllerState) := by decide

/-- V6: the bits where the strings differ, the ends, and the reads that have no value. -/
theorem test_encoding_table :
    bitAt 0 36 = some 0 ∧ bitAt 1 36 = some 1 ∧ bitAt 0 37 = some 1 ∧ bitAt 2 37 = some 0 ∧ bitAt 0 0 = some 1 ∧
    bitAt 2 43 = some 0 ∧ bitAt 0 44 = none ∧ bitAt 3 0 = none := by decide

/-- The examples of rules R118 and R119, and the start of bit 36 of SCEA, a 1. -/
theorem test_symbols :
    see (fun t => (t.pu22Inject, t.dataOut, t.dataDir))
      (exec .sym0 { atCode 3 with pu22Mode := true, pu22Inject := true, dataOut := true, dataDir := true }) = some (false, false, true) ∧
    see (fun t => t.dataDir) (exec .sym1 { atCode 3 with dataDir := true }) = some false ∧
    see (fun t => (t.sym, t.dataDir)) (exec .strScea { atCode 4 with sym := 36, dataDir := true }) = some (37, false) ∧
    faultOf (exec .strScee { atCode 3 with sym := 44 }) = some (.contractViolation 0 44) := by decide

/-! ## Witnesses: a state and operands that meet every hypothesis of a statement -/

theorem witness_StepRunsTheDecodedOperation :
    ({ State.reset with stimulus := [0x07] } : State).params.wf = true ∧
    decode (decodeCtx { State.reset with stimulus := [0x07] }) .iv6 [(0x07 : InputVector).setWidth 8] = .ok [.sqckRise true] ∧
    Instr.wf (decodeCtx { State.reset with stimulus := [0x07] }) (.sqckRise true) = true ∧
    decode (decodeCtx State.reset) .iv6 [(0x1B : InputVector).setWidth 8] = .ok [.sqckRise true, .gateEdge false, .usTick] := by decide

theorem witness_StepBeyondTheTraceRunsAFreeVector : State.reset.params.wf = true ∧ State.reset.stimulus = [] := by decide

/-- Every constraint at its boundary. -/
theorem witness_OnlyUnsupportedParametersAreRefused :
    Params.wf { Params.default with tBitUs := 1, tStringUs := 1, delayWidth := 0, tsw := 20, edgeCntWidth := 7 } = true ∧
    Params.wf { Params.default with tBitUs := 0 } = false ∧ Params.wf { Params.default with tStringUs := 0 } = false ∧
    Params.wf { Params.default with tsw := 19 } = false ∧ Params.wf { Params.default with edgeCntWidth := 6 } = false ∧
    Params.wf { Params.default with delayWidth := 16 } = false := by decide

theorem witness_CyclePerformsResetAloneElseInOrder :
    State.reset.params.wf = true ∧ State.reset.params.order = .sgt ∧ BitVec.getLsbD (0x3F : InputVector) 5 = true ∧
    BitVec.getLsbD (0x1F : InputVector) 5 = false ∧ BitVec.getLsbD (0x00 : InputVector) 5 = false := by decide

theorem witness_UntestedInputBitsAreIgnored :
    BitVec.getLsbD (0x2A : InputVector) 5 = true ∧
    (∀ n : Nat, n = 5 ∨ n = 4 ∨ n = 3 ∨ n = 1 → BitVec.getLsbD (0x10 : InputVector) n = BitVec.getLsbD (0x15 : InputVector) n) ∧
    BitVec.getLsbD (0x10 : InputVector) 3 = false ∧ BitVec.getLsbD (0x10 : InputVector) 1 = false := by
  refine ⟨by decide, ?_, by decide, by decide⟩
  rintro n (rfl | rfl | rfl | rfl) <;> decide

theorem witness_DecodeOfEncodeIsTheOperation :
    Instr.wf tableCtx (.pktPrimary01Hi98 0x98010040) = true ∧ Instr.wf tableCtx (.pktSecondary01 0x20050001) = true ∧
    Instr.wf { tableCtx with hystPositive := false } (.pktOther 0x20050001) = true ∧ Instr.wf tableCtx .strScei = true ∧
    Instr.wf { tableCtx with grouping := .loose } (.pktPrimary01Lo01 0x01FFFF) = true := by decide

theorem witness_DecodedOperationsAreWellFormed :
    decode tableCtx .fsm3 [0x06] = .ok [.endInjection] ∧ decode tableCtx .iv6 [0x1F] = .ok [.sqckRise true, .gateEdge true, .usTick] := by
  decide

theorem witness_AssembledLinesPerformTheirEvents :
    StimLine.wf (.plus (.sqck true) (.plus (.gate false) .tick)) = true ∧
    StimLine.eventsOnly (.plus (.sqck true) (.plus (.gate false) .tick)) = true := by decide

theorem witness_ResetGivesEveryRegisterItsValue :
    State.reset.params.wf = true ∧ BitVec.getLsbD (0x20 : InputVector) 5 = true := by decide

theorem witness_NopChangesNothing :
    State.reset.params.wf = true ∧ BitVec.getLsbD (0x05 : InputVector) 5 = false ∧ BitVec.getLsbD (0x05 : InputVector) 4 = false ∧
    BitVec.getLsbD (0x05 : InputVector) 3 = false ∧ BitVec.getLsbD (0x05 : InputVector) 1 = false := by decide

theorem witness_PacketBufferReadAfterWrite :
    Memory.wf [(0, 0x41), (11, 0xFF)] = true ∧ (0 : Nat) < 12 ∧ (11 : Nat) < 12 ∧
    (∀ a : Nat, a < 12 → Memory.read [(0, 0x41), (11, 0xFF)] a = Memory.read [(0, 0x41), (11, 0xFF)] a) :=
  ⟨by decide, by decide, by decide, fun _ _ => rfl⟩

theorem witness_GapResynchronises :
    180 < gapUs { State.reset with usCount := 181 } ∧ 180 < gapUs { State.reset with usCount := 81, lastTs := 0xFFFFFF9C } := by decide

theorem witness_SampleIsOredAtTheBitPosition :
    gapUs { State.reset with usCount := 180, bitPos := 6 } ≤ 180 ∧ (6 : BitVec 3) ≠ 7 := by decide

theorem witness_EighthSampleStoresTheByte :
    gapUs { State.reset with bitPos := 7, pktPos := 10, usCount := 180 } ≤ 180 ∧ (10 : BitVec 4).toNat < 11 ∧ (0 : BitVec 4).toNat < 11 := by
  decide

theorem witness_LastSampleClassifiesThePacket :
    gapUs { holding leadIn 13 with bitPos := 7, pktPos := 11 } ≤ 180 ∧ (holding leadIn 13).hyst.toNat ≤ 13 ∧
    hystAfter (pktClass .guarded true (packetWord (Memory.write (packetMemory leadIn) 11 0))) 13 = 14 ∧
    hystAfter (pktClass .guarded false (packetWord (Memory.write (packetMemory 0) 11 0x80))) 0 = 0 := by decide

/-- The three clauses at their boundaries: `pktPos` 12 and 15; `hyst` 14 and 15; `pktPos` 11 with `hyst` 13. -/
theorem witness_SqckRiseStopsOnlyOnUnreachableValues :
    gapUs { State.reset with bitPos := 7, pktPos := 12 } ≤ 180 ∧ 12 ≤ (12 : BitVec 4).toNat ∧ 12 ≤ (15 : BitVec 4).toNat ∧
    gapUs { State.reset with bitPos := 7, pktPos := 11, hyst := 14 } ≤ 180 ∧ 14 ≤ (14 : BitVec 4).toNat ∧ 14 ≤ (15 : BitVec 4).toNat ∧
    (11 : BitVec 4).toNat ≤ 11 ∧ (13 : BitVec 4).toNat ≤ 13 := by decide

/-- A sample that stores a byte with a request pending, and one that only shifts. -/
theorem witness_SqckRiseFrame :
    (∃ t : State, exec (.sqckRise true) { State.reset with bitPos := 7, pktPos := 3, reqPending := true } = .next t) ∧
    (∃ t : State, exec (.sqckRise true) { State.reset with bitPos := 2 } = .next t) ∧
    (resyncCheck { State.reset with bitPos := 2 }).bitPos ≠ 7 := ⟨⟨_, rfl⟩, ⟨_, rfl⟩, by decide⟩

/-- The 94 samples of the lead-in packet between its first and its last, after a tick and a gate edge, and with an empty cycle and a tick
before the last. -/
def leadInBetween : List Instr :=
  .usTick :: .gateEdge true :: ((((packetSamples leadIn).drop 1).take 94).map .sqckRise ++ [.nop, .usTick])

/-- Both ways to stand at the start of a packet. -/
theorem witness_PacketIsAssembledAndClassifiedOnce :
    Memory.wf State.reset.pkt = true ∧ AtPacketStart State.reset ∧ Memory.wf [(3, 0x55)] = true ∧
    AtPacketStart { State.reset with usCount := 181, bitPos := 5, byteAcc := 0x1F, pktPos := 4, pkt := [(3, 0x55)] } :=
  ⟨by decide, .inl ⟨rfl, rfl, rfl⟩, by decide, .inr (by decide)⟩

/-- A packet with ticks, a gate edge and an empty cycle between its samples, from reset. -/
theorem witness_PacketIsAssembledAndClassifiedOnce_between :
    State.reset.sym.toNat ≤ 45 ∧ (∀ i ∈ leadInBetween, isEvent i = true) ∧
    leadIn.getLsbD 0 :: (leadInBetween.filterMap sampleOf ++ [leadIn.getLsbD 95]) = packetSamples leadIn ∧
    (∀ a : State, exec (.sqckRise (leadIn.getLsbD 0)) State.reset = .next a →
      noResync (leadInBetween ++ [.sqckRise (leadIn.getLsbD 95)]) a = true) :=
  ⟨by decide, by decide +kernel, by decide +kernel, fun a h => by cases h; decide +kernel⟩

theorem witness_MatchingPacketsRaiseHyst : (0 : BitVec 4).toNat ≤ 13 ∧ (13 : BitVec 4).toNat ≤ 13 := by decide

theorem witness_OtherPacketsLowerHyst : (holding 0 0).hyst.toNat ≤ 13 ∧ (holding 0 13).hyst.toNat ≤ 13 := by decide

theorem witness_PacketClassFaultsAboveThirteen :
    isPacketClass (.pktPrimaryA0 leadIn) = true ∧ isPacketClass (.pktOther 0) = true ∧ 14 ≤ (holding leadIn 14).hyst.toNat ∧
    14 ≤ (holding leadIn 15).hyst.toNat := by decide

/-- The four clauses of the threshold, at 13 and 14. -/
theorem witness_ThresholdClampsAndRequests :
    (holding leadIn 13).hyst.toNat < 14 ∧ 14 ≤ (holding leadIn 14).hyst.toNat ∧ (holding leadIn 14).injectionRunning = false ∧
    (holding leadIn 14).reqPending = false ∧ 14 ≤ ({ holding leadIn 14 with injectionRunning := true } : State).hyst.toNat ∧
    14 ≤ ({ holding leadIn 14 with reqPending := true } : State).hyst.toNat := by decide

theorem witness_FourteenPrimaryPacketsRequestOnce :
    Memory.wf State.reset.pkt = true ∧ AtPacketStart State.reset ∧ State.reset.hyst = 0 ∧ State.reset.reqPending = false ∧
    State.reset.injectionRunning = false ∧ (∀ p ∈ List.replicate 14 leadIn, primaryMatch State.reset.params.grouping p = true) ∧
    1 ≤ (List.replicate 14 leadIn).length ∧ (List.replicate 14 leadIn).length ≤ 14 :=
  ⟨by decide, .inl ⟨rfl, rfl, rfl⟩, rfl, rfl, rfl, fun p hp => by rw [List.eq_of_mem_replicate hp]; decide, by decide, by decide⟩

/-- With ticks: a wait of 1000 before each packet and 180 before each sample. -/
theorem witness_FourteenPrimaryPacketsRequestOnce_ticks :
    State.reset.bitPos = 0 ∧ State.reset.byteAcc = 0 ∧ State.reset.pktPos = 0 ∧ State.reset.fsm = 0 ∧ (atCode 1).fsm = 1 ∧
    (atCode 1).injectionRunning = false ∧ 180 ≤ 180 ∧
    (∀ q ∈ List.replicate 14 ((1000 : Nat), leadIn), primaryMatch State.reset.params.grouping q.2 = true) ∧
    (List.replicate 14 ((1000 : Nat), leadIn)).length = 14 :=
  ⟨rfl, rfl, rfl, rfl, rfl, rfl, by decide, fun q hq => by rw [List.eq_of_mem_replicate hq]; decide, by decide⟩

theorem witness_EdgeCountsBeforeFinalisation :
    State.reset.modeDetected = false ∧ State.reset.params.finalizeOn = .tick ∧ (atCode 1).modeDetected = true ∧
    see (fun t => (t.highEdges, t.lowEdges)) (exec (.gateEdge false) { atCode 1 with highEdges := 3, lowEdges := 4 }) = some (3, 4) := by
  decide

theorem witness_EdgeIsMirroredDuringPassthrough :
    ({ atCode 3 with pu22Mode := true, pu22Inject := true } : State).modeDetected = true ∧
    ({ atCode 3 with pu22Mode := true, pu22Inject := true } : State).pu22Inject = true := by decide

theorem witness_EdgeDoesNothingOtherwise : (atCode 1).modeDetected = true ∧ (atCode 1).pu22Inject = false := by decide

/-- A state whose mode is finalised by an edge. -/
def edgeState (us : Nat) : State := { State.reset with params := { Params.default with finalizeOn := .edge }, usCount := us }

/-- The clauses at 1 000 000 and 999 999. -/
theorem witness_EdgeFinalisesWhereTheParameterSaysSo :
    (edgeState 0).params.finalizeOn = .edge ∧ (edgeState 0).modeDetected = false ∧ 1000000 ≤ (edgeState 1000000).usCount ∧
    (edgeState 1000000).pu22Inject = false ∧ (edgeState 999999).usCount < 1000000 := by decide

theorem witness_GateEdgeFrame : State.reset.params.finalizeOn = .tick ∧ State.reset.pu22Inject = false := by decide

/-- The clauses at `usCount` 999 998 and 999 999. -/
theorem witness_TickFinalisesTheModeAtOneSecond :
    State.reset.params.finalizeOn = .tick ∧ State.reset.modeDetected = false ∧ State.reset.fsm = 0 ∧
    999998 + 1 < 2 ^ State.reset.params.tsw ∧ 999999 + 1 < 2 ^ State.reset.params.tsw ∧ 999998 + 1 < 1000000 ∧ 1000000 ≤ 999999 + 1 := by
  decide

/-- The three clauses: a tick after, before and at the finalisation. -/
theorem witness_ModeIsDecidedOnce :
    Instr.usTick ≠ .reset ∧ see (fun t => t.modeDetected) (exec .usTick (atCode 1)) = some true ∧
    see (fun t => t.modeDetected) (exec .usTick State.reset) = some false ∧
    see (fun t => t.modeDetected) (exec .usTick { State.reset with usCount := 999999 }) = some true := by decide

theorem witness_TimeBaseAdvancesOnlyAtTicks :
    see (fun t => t.usCount) (exec .usTick { State.reset with usCount := 0xFFFFFFFF }) = some 0 ∧
    see (fun t => t.usCount) (exec (.gateEdge true) { State.reset with usCount := 7 }) = some 7 ∧ Instr.usTick ≠ .reset := by decide

/-- `due` in its three cases: the finalising tick, an earlier one, and one under `FINALIZE_ON` = `edge`. -/
theorem witness_TickRunsTheStateOfItsCode :
    (({ State.reset with usCount := 999999 } : State).params.finalizeOn = .tick ∧ State.reset.modeDetected = false ∧
      1000000 ≤ (999999 + 1) % 2 ^ State.reset.params.tsw) ∧
    ¬ 1000000 ≤ (999998 + 1) % 2 ^ State.reset.params.tsw ∧ (edgeState 999999).params.finalizeOn = .edge := by decide

/-- Decision D12: under `FINALIZE_ON` = `edge` the tick that makes `usCount` 1 000 000 finalises nothing. -/
theorem test_tick_does_not_finalise_under_edge :
    see (fun t => (t.usCount, t.modeDetected, t.fsm)) (exec .usTick (edgeState 999999)) = some (1000000, false, 0) := by decide

/-- A tick that keeps the request and one that consumes it. -/
theorem witness_UsTickFrame :
    see (fun t => t.reqPending) (exec .usTick { State.reset with reqPending := true }) = some true ∧
    see (fun t => (t.reqPending, t.fsm)) (exec .usTick { atCode 1 with reqPending := true }) = some (false, 2) := by decide

theorem witness_TickCompletesInEveryState :
    (atCode 5).sym.toNat ≤ 45 ∧ ({ atCode 5 with sym := 45 } : State).sym.toNat ≤ 45 := by decide

theorem witness_WaitModeWaitsForTheMode : State.reset.modeDetected = false ∧ (atCode 0).modeDetected = true := by decide

theorem witness_WaitReqConsumesTheRequest :
    (atCode 1).reqPending = false ∧ ({ atCode 1 with reqPending := true } : State).reqPending = true := by decide

theorem witness_StartTakesTheLines : (atCode 2).pu22Mode = false ∧ ({ atCode 2 with pu22Mode := true } : State).pu22Mode = true := by decide

theorem witness_EndReleasesTheLines : (atCode 6).pu22Mode = false ∧ ({ atCode 6 with pu22Mode := true } : State).pu22Mode = true := by decide

theorem witness_ReservedCodeIsStuckAndFlagged : (atCode 7).fsm = 7 ∧ (atCode 7).modeDetected = true := by decide

theorem witness_SymbolOneReleasesOrPassesThrough :
    (atCode 3).pu22Mode = false ∧ ({ atCode 3 with pu22Mode := true } : State).pu22Mode = true := by decide

theorem witness_SendCountsDownItsDelay : ({ atCode 3 with delayCnt := 1 } : State).delayCnt ≠ 0 := by decide

/-- The first and the last bit of a string. -/
theorem witness_SendStartsTheNextBit :
    (atCode 3).delayCnt = 0 ∧ (printedBits .scee)[(0 : BitVec 6).toNat]? = some 1 ∧ (printedBits .scei)[(43 : BitVec 6).toNat]? = some 0 := by
  decide

/-- Both clauses of the sixth string. -/
theorem witness_SendPausesAfterTheString :
    ({ atCode 5 with sym := 44 } : State).delayCnt = 0 ∧ ({ atCode 5 with sym := 44 } : State).round = 0 ∧
    ({ atCode 5 with sym := 44, round := 1 } : State).params.pauseAfterLast = true ∧
    ({ atCode 5 with sym := 44, round := 1, params := { Params.default with pauseAfterLast := false } } : State).params.pauseAfterLast =
      false := by decide

theorem witness_StringsFollowInTheFixedOrder :
    ({ atCode 5 with sym := 45 } : State).delayCnt = 0 ∧ ({ atCode 5 with sym := 45 } : State).round = 0 ∧
    ({ atCode 5 with sym := 45, round := 1 } : State).round = 1 := by decide

theorem witness_SendFaultsOnUnreachableSymbolCount :
    ({ atCode 4 with sym := 46 } : State).delayCnt = 0 ∧ 46 ≤ (46 : BitVec 6).toNat ∧ 46 ≤ (63 : BitVec 6).toNat := by decide

/-- The clauses at `sym` 43 and 44. -/
theorem witness_StringRowsStartTheirNextBit :
    (printedBits .scea)[(43 : BitVec 6).toNat]? = some 0 ∧ 44 ≤ (44 : BitVec 6).toNat ∧ 44 ≤ (63 : BitVec 6).toNat := by decide

/-- A state at `START`, at the first and the last tick of the count. -/
theorem witness_InjectionLastsItsFixedTime :
    (atCode 2).params.wf = true ∧ (atCode 2).params.pauseAfterLast = true ∧ (atCode 2).modeDetected = true ∧ (atCode 2).fsm = 2 ∧
    1 ≤ 6 * (atCode 2).params.stringTicks + 2 ∧ (atCode 2).params.stringTicks = 266000 := by decide

/-- The first and the last string, bit 0 and bit 43. -/
theorem witness_EveryBitOfAnInjectionStartsOnTime :
    (atCode 2).params.wf = true ∧ (atCode 2).modeDetected = true ∧ (atCode 2).fsm = 2 ∧ (atCode 2).pu22Inject = false ∧ (0 : Nat) < 6 ∧
    (5 : Nat) < 6 ∧ (printedBits (stringNo 0))[0]? = some 1 ∧ (printedBits (stringNo 5))[43]? = some 0 ∧
    (atCode 2).params.pauseAfterLast = true := by decide

theorem witness_OnlyTicksMoveTheController :
    BitVec.getLsbD (0x0F : InputVector) 5 = false ∧ BitVec.getLsbD (0x0F : InputVector) 4 = false ∧
    (∃ t : State, step { atCode 4 with sym := 7, delayCnt := 1234, stimulus := [0x0F] } = .next t) := ⟨by decide, by decide, ⟨_, rfl⟩⟩

/-- A request that the tick consumes and one that stays. -/
theorem witness_RequestsAreNeitherLostNorDoubled :
    BitVec.getLsbD (0x10 : InputVector) 5 = false ∧ BitVec.getLsbD (0x10 : InputVector) 4 = true ∧
    (atCode 1).params.order = .sgt ∧
    see (fun t => (t.reqPending, t.fsm)) (step { atCode 1 with reqPending := true, stimulus := [0x10] }) = some (false, 2) ∧
    see (fun t => (t.reqPending, t.fsm)) (step { atCode 1 with reqPending := true, stimulus := [0x0B] }) = some (true, 1) := by decide

/-- A state in the middle of an injection in the older-drive variant: bit 1 of SCEE, a 0, is on the line. -/
def insideInjection : State :=
  { atCode 3 with
    usCount := 1004003, sym := 2, delayCnt := 3999, injectionRunning := true, dataDir := true, gateDir := true, stimulus := [0x10] }

/-- The invariant holds there. -/
theorem insideInjection_inv : BlockInv insideInjection where
  ranges := by
    constructor <;> decide
  mode := by
    constructor <;> decide
  inject := by
    constructor
    case sending_inject => intro r h; cases h; decide
    case sending_dataDir => intro r h; cases h; decide
    all_goals decide

/-- A state that waits for a request in the newer-drive variant, with a gate edge of level 1 next. -/
def waiting : State := { atCode 1 with usCount := 1004003, pu22Mode := true, stimulus := [0x0C] }

/-- The invariant holds there. -/
theorem waiting_inv : BlockInv waiting where
  ranges := by
    constructor <;> decide
  mode := by
    constructor <;> decide
  inject := by
    constructor
    case sending_inject => intro r h; cases h
    case sending_dataDir => intro r h; cases h
    all_goals decide

theorem witness_NobodyDrivesTheLinesWithoutAnInjection :
    BlockInv insideInjection ∧ (∃ t : State, step insideInjection = .next t) := ⟨insideInjection_inv, ⟨_, rfl⟩⟩

theorem witness_NobodyDrivesTheLinesWithoutAnInjection_idle :
    BlockInv waiting ∧ waiting.injectionRunning = false ∧
      (∃ t : State, step waiting = .next t ∧ t.injectionRunning = false ∧ t.dataOut = false) :=
  ⟨waiting_inv, rfl, ⟨_, rfl, rfl, rfl⟩⟩

theorem witness_EveryStepKeepsInv : BlockInv insideInjection ∧ (∃ t : State, step insideInjection = .next t) :=
  ⟨insideInjection_inv, ⟨_, rfl⟩⟩

theorem witness_NoStepStops : BlockInv insideInjection := insideInjection_inv

end Sys2Proof.Tests
end

section
/-! SUPPORT. One cycle as a run of the operations its input vector selects, and the two statements about it: the order of a cycle's
operations (rule R62) and the cycle without a strobe (rule R63). -/

namespace Sys2Proof.Machine

@[simp] theorem exec_nop (s : State) : exec .nop s = .next s := rfl

theorem andThen_assoc (r : Result) (k l : State → Result) :
    andThen (andThen r k) l = andThen r fun s => andThen (k s) l := by
  cases r <;> rfl

/-- With supported parameters a step performs the operations of the trace's first vector (rules R46, R48, R61). -/
theorem step_eq_runOps {s : State} {v : InputVector} {vs : List InputVector} (hwf : s.params.wf = true)
    (hv : s.stimulus = v :: vs) : step s = runOps (decodeIV6 s.params.order v) { s with stimulus := vs } := by
  simp only [step, hwf, if_true, cycle, runVector, nextVector, takeVector, hv]

/-- An operation behind a strobe is performed exactly when the strobe is 1. -/
theorem runOps_strobe (b : Bool) (i : Instr) :
    runOps (if b then [i] else []) = fun s => if b then exec i s else .next s := by
  funext s
  cases b
  · rfl
  · cases h : exec i s <;> simp [h]

/-- Without `rst` each of the other three strobes selects its operation (rules R61, R69). -/
theorem iv_strobeOps {v : InputVector} (h5 : v.getLsbD 5 = false) :
    ivSqckOps v = (if v.getLsbD 1 then [.sqckRise (v.getLsbD 0)] else []) ∧
    ivGateOps v = (if v.getLsbD 3 then [.gateEdge (v.getLsbD 2)] else []) ∧
    ivTickOps v = (if v.getLsbD 4 then [.usTick] else []) := by
  obtain ⟨-, hs, hg, ht, -⟩ := iv_strobes v
  simp only [ivSqckOps, ivGateOps, ivTickOps, ivSample, ivLevel, hs, hg, ht, h5, Bool.not_false, Bool.true_and, and_self]

/-- Without `rst` the default order performs the three strobes' operations one after another; the row `NOP` is the case in which
there is none (rules R61, R62). -/
theorem runOps_decodeIV6_sgt {v : InputVector} (h5 : v.getLsbD 5 = false) :
    runOps (decodeIV6 .sgt v) = runOps (ivSqckOps v ++ ivGateOps v ++ ivTickOps v) := by
  by_cases hn : v.getLsbD 4 = false ∧ v.getLsbD 3 = false ∧ v.getLsbD 1 = false
  · obtain ⟨h4, h3, h1⟩ := hn
    obtain ⟨hs, hg, ht⟩ := iv_strobeOps h5
    rw [decodeIV6_nop h5 h4 h3 h1, hs, hg, ht, h4, h3, h1]
    rfl
  · have hreset : ivIsReset v = false := (iv_strobes v).1.trans h5
    have hnop : ivIsNop v = false := by
      obtain ⟨-, -, -, -, e⟩ := iv_strobes v
      rw [e, h5]
      simpa [and_assoc] using hn
    simp only [decodeIV6, hreset, hnop, Bool.false_eq_true, if_false]

end Sys2Proof.Machine

namespace Sys2Proof.Proofs

open Sys2Proof.Machine

/-- Settles O4: the decoder's list for the vector, performed one after another (rule R62). -/
theorem cyclePerformsResetAloneElseInOrder : Obligations.CyclePerformsResetAloneElseInOrder := by
  intro s v vs hwf hv
  rw [step_eq_runOps hwf hv]
  constructor
  · intro h5
    rw [decodeIV6_reset h5]
    exact congrFun (runOps_strobe true .reset) _
  · intro h5 hsgt
    obtain ⟨hs, hg, ht⟩ := iv_strobeOps h5
    rw [hsgt, runOps_decodeIV6_sgt h5, runOps_append, runOps_append, andThen_assoc, hs, hg, ht]
    simp only [runOps_strobe]

/-- Settles O14: the vector decodes to `NOP` alone, and no output port depends on the trace (rules R33, R63). -/
theorem nopChangesNothing : Obligations.NopChangesNothing := by
  refine ⟨exec_nop, fun s v vs hwf hv h5 h4 h3 h1 => ⟨?_, rfl⟩⟩
  rw [step_eq_runOps hwf hv, decodeIV6_nop h5 h4 h3 h1, runOps_cons, exec_nop, andThen_next, runOps_nil]

end Sys2Proof.Proofs
end

section
/-! SUPPORT. `CLASSIFY` through the decoder and `THRESHOLD` as an equation per case, and the statement about them (rules R90, R94, R95). -/

namespace Sys2Proof.Machine

/-- "`hyst > 0`" of rule R66, tested on the counter itself. -/
theorem decide_hyst_pos (s : State) : decide (0 < s.hyst.toNat) = decide (s.hyst ≠ 0) := by
  simp [Nat.pos_iff_ne_zero, ← BitVec.toNat_inj]

/-- `CLASSIFY` performs the operation the decoder reads from the buffer, then `THRESHOLD` (rule R90). -/
theorem classify_eq_exec (s : State) :
    classify s = andThen (exec (decodePkt96 s.params.grouping (decide (s.hyst ≠ 0)) (packetWord s.pkt)) s)
      (fun t => .next (threshold t)) := by
  rw [classify, runPktRow_eq_exec, bufferRow, decide_hyst_pos, decodePkt96]

theorem hystTriggers_iff {s : State} : hystTriggers s = true ↔ 14 ≤ s.hyst.toNat := decide_eq_true_iff

theorem request_of_pending {s : State} (hp : s.reqPending = true) : request s = s := if_pos hp

theorem request_of_not_pending {s : State} (hp : s.reqPending = false) : request s = { s with reqPending := true } :=
  if_neg (by simp [hp])

theorem threshold_of_lt {s : State} (h : s.hyst.toNat < 14) : threshold s = s :=
  if_neg (by rw [hystTriggers_iff]; omega)

/-- The clamp is unconditional; only the request depends on the injection (rule R94). -/
theorem threshold_of_ge {s : State} (h : 14 ≤ s.hyst.toNat) :
    threshold s = if s.injectionRunning then { s with hyst := 11 } else request { s with hyst := 11 } :=
  if_pos (hystTriggers_iff.mpr h)

theorem threshold_of_idle {s : State} (h : 14 ≤ s.hyst.toNat) (hi : s.injectionRunning = false) :
    threshold s = request { s with hyst := 11 } := by
  rw [threshold_of_ge h, hi, if_neg Bool.false_ne_true]

end Sys2Proof.Machine

namespace Sys2Proof.Proofs

open Sys2Proof.Machine

/-- Settles O26: below 14 nothing happens; from 14 on `hyst` is clamped, and the request is made by the two flags (rules R94, R95). -/
theorem thresholdClampsAndRequests : Obligations.ThresholdClampsAndRequests := by
  refine ⟨classify_eq_exec, fun s => ⟨threshold_of_lt, fun h hi => ?running, fun h hi hp => ?pending, fun h hi hp => ?free⟩⟩
  case running => rw [threshold_of_ge h, if_pos hi]
  case pending => exact (threshold_of_idle h hi).trans (request_of_pending hp)
  case free => exact (threshold_of_idle h hi).trans (request_of_not_pending hp)

end Sys2Proof.Proofs
end

section
/-! SUPPORT. `GATE_EDGE` as an equation per case: when the edge finalises nothing, and the three actions of an edge; and the three
statements about them (rules R100 to R103). -/

namespace Sys2Proof.Machine

theorem exec_gateEdge (l : Bool) (s : State) : exec (.gateEdge l) s = .next (edgeAction l (finalizeAtEdge s)) := rfl

theorem finalizeDue_of_final {s : State} (hm : s.modeDetected = true) : finalizeDue s = false := by
  rw [finalizeDue, hm, Bool.not_true, Bool.false_and]

theorem finalizeCheck_of_final {s : State} (hm : s.modeDetected = true) : finalizeCheck s = s :=
  if_neg (by simp [finalizeDue_of_final hm])

theorem finalizeAtEdge_of_tick {s : State} (hf : s.params.finalizeOn = .tick) : finalizeAtEdge s = s := by
  simp only [finalizeAtEdge, hf]

/-- A final mode is not finalised again, under either value of `FINALIZE_ON` (rule R105, decision D12). -/
theorem finalizeAtEdge_of_final {s : State} (hm : s.modeDetected = true) : finalizeAtEdge s = s := by
  cases hf : s.params.finalizeOn with
  | tick => exact finalizeAtEdge_of_tick hf
  | edge => simp only [finalizeAtEdge, hf, finalizeCheck_of_final hm]

theorem edgeAction_of_not_final {s : State} (l : Bool) (hm : s.modeDetected = false) : edgeAction l s = count l s :=
  if_neg (by simp [hm])

theorem edgeAction_of_final {s : State} (l : Bool) (hm : s.modeDetected = true) :
    edgeAction l s = if s.pu22Inject then mirror l s else s :=
  if_pos hm

/-- Under `FINALIZE_ON` = `tick` an edge before the finalisation only counts (rule R101). -/
theorem exec_gateEdge_of_not_final {s : State} (l : Bool) (hm : s.modeDetected = false) (hf : s.params.finalizeOn = .tick) :
    exec (.gateEdge l) s = .next (count l s) := by
  rw [exec_gateEdge, finalizeAtEdge_of_tick hf, edgeAction_of_not_final l hm]

/-- An edge after the finalisation is mirrored or ignored (rules R102, R103). -/
theorem exec_gateEdge_of_final {s : State} (l : Bool) (hm : s.modeDetected = true) :
    exec (.gateEdge l) s = .next (if s.pu22Inject then mirror l s else s) := by
  rw [exec_gateEdge, finalizeAtEdge_of_final hm, edgeAction_of_final l hm]

end Sys2Proof.Machine

namespace Sys2Proof.Proofs

open Sys2Proof.Machine

/-- Settles O28: before the finalisation the edge is `COUNT`, with the saturating increment of its level's counter; after it, neither
the mirrored nor the ignored edge writes a counter (rule R101). -/
theorem edgeCountsBeforeFinalisation : Obligations.EdgeCountsBeforeFinalisation := by
  refine ⟨fun s hm hf => ⟨exec_gateEdge_of_not_final true hm hf, exec_gateEdge_of_not_final false hm hf⟩, fun s t l hm h => ?_⟩
  rw [exec_gateEdge_of_final l hm] at h
  cases h
  cases s.pu22Inject with
  | true => exact ⟨rfl, rfl⟩
  | false => exact ⟨rfl, rfl⟩

/-- Settles O29: the edge after the finalisation, with the passthrough enabled (rule R102). -/
theorem edgeIsMirroredDuringPassthrough : Obligations.EdgeIsMirroredDuringPassthrough := by
  intro s l hm hi
  rw [exec_gateEdge_of_final l hm, if_pos hi, mirror]

/-- Settles O30: the edge after the finalisation, without the passthrough (rule R103). -/
theorem edgeDoesNothingOtherwise : Obligations.EdgeDoesNothingOtherwise := by
  intro s l hm hi
  rw [exec_gateEdge_of_final l hm, hi, if_neg Bool.false_ne_true]

end Sys2Proof.Proofs
end

section
/-! SUPPORT. What a packet, a bit and a symbol leave unchanged, the time base under every operation, and the statement about it
(rule R111). -/

namespace Sys2Proof.Machine

/-- `THRESHOLD` writes `hyst` and the request slot only (rules R94, R95). -/
theorem threshold_frame (s : State) : threshold s = { s with hyst := (threshold s).hyst, reqPending := (threshold s).reqPending } := by
  unfold threshold request
  split
  · split
    · rfl
    · split <;> rfl
  · rfl

/-- `CLASSIFY` writes `hyst` and the request slot only (rule R90). -/
theorem classify_frame {s t : State} (h : classify s = .next t) : t = { s with hyst := t.hyst, reqPending := t.reqPending } := by
  obtain ⟨-, rfl⟩ := classify_eq_next.mp h
  exact threshold_frame _

theorem packetDone_frame {s t : State} (h : packetDone s = .next t) : t = { s with hyst := t.hyst, reqPending := t.reqPending } := by
  unfold packetDone at h
  split at h
  · exact classify_frame h
  · cases h
    rfl

/-- `SQCK_RISE` writes the sampler's and the detector's registers, the buffer and the request slot only (rules R80 to R84). -/
theorem execSqckRise_frame {d : Bool} {s t : State} (h : execSqckRise d s = .next t) :
    t = { s with lastTs := t.lastTs, bitPos := t.bitPos, byteAcc := t.byteAcc, pktPos := t.pktPos, pkt := t.pkt, hyst := t.hyst,
                 reqPending := t.reqPending } := by
  have hcheck : resyncCheck s = { s with lastTs := (resyncCheck s).lastTs, bitPos := (resyncCheck s).bitPos,
                                         byteAcc := (resyncCheck s).byteAcc, pktPos := (resyncCheck s).pktPos } := by
    unfold resyncCheck
    split <;> rfl
  rcases execSqckRise_eq_next.mp h with ⟨-, rfl⟩ | ⟨-, -, hdone⟩
  · rw [hcheck]
    rfl
  · rw [packetDone_frame hdone, hcheck]
    rfl

/-- A symbol writes the output line and the passthrough flag only (rules R118, R119). -/
theorem runSymbol_frame {b : SymbolCode} {s t : State} (h : runSymbol b s = .next t) :
    t = { s with pu22Inject := t.pu22Inject, dataDir := t.dataDir, dataOut := t.dataOut } := by
  rw [runSymbol_eq, Host.Outcome.next.injEq] at h
  subst h
  split
  · rfl
  · split <;> rfl

theorem execGateEdge_usCount {l : Bool} {s t : State} (h : execGateEdge l s = .next t) : t.usCount = s.usCount := by
  cases h
  simp

theorem hystUp_usCount {s t : State} (h : hystUp s = .next t) : t.usCount = s.usCount := by
  obtain ⟨-, rfl⟩ := hystUp_eq_next.mp h
  rfl

theorem hystDown_usCount {s t : State} (h : hystDown s = .next t) : t.usCount = s.usCount := by
  obtain ⟨-, rfl⟩ := hystDown_eq_next.mp h
  rfl

theorem execSqckRise_usCount {d : Bool} {s t : State} (h : execSqckRise d s = .next t) : t.usCount = s.usCount := by
  rw [execSqckRise_frame h]

theorem runFsmRow_usCount (r : FsmRow) {s t : State} (h : runFsmRow r s = .next t) : t.usCount = s.usCount := by
  rw [(runFsmRow_frame h).1]

theorem runSymbol_usCount (b : SymbolCode) {s t : State} (h : runSymbol b s = .next t) : t.usCount = s.usCount := by
  rw [runSymbol_frame h]

theorem startBit_usCount {k : Nat} {s t : State} (h : startBit k s = .next t) : t.usCount = s.usCount := by
  rw [(startBit_frame h).1]

/-- Only `RESET` and `US_TICK` write the time base (rule R111). -/
theorem exec_usCount {i : Instr} {s t : State} (hr : i ≠ .reset) (ht : i ≠ .usTick) (h : exec i s = .next t) :
    t.usCount = s.usCount := by
  cases i
  case reset => exact absurd rfl hr
  case usTick => exact absurd rfl ht
  case nop => cases h; rfl
  case sqckRise d => exact execSqckRise_usCount h
  case gateEdge l => exact execGateEdge_usCount h
  case pktOther p => exact hystDown_usCount h
  case waitMode => exact runFsmRow_usCount .waitMode h
  case waitReq => exact runFsmRow_usCount .waitReq h
  case start => exact runFsmRow_usCount .start h
  case sendE => exact runFsmRow_usCount .sendE h
  case sendA => exact runFsmRow_usCount .sendA h
  case sendI => exact runFsmRow_usCount .sendI h
  case endInjection => exact runFsmRow_usCount .endInjection h
  case fsmReserved7 => exact runFsmRow_usCount .reserved7 h
  case sym0 => exact runSymbol_usCount 0 h
  case sym1 => exact runSymbol_usCount 1 h
  case strScee | strScea | strScei => exact startBit_usCount h
  -- the ten matching packet classes
  all_goals exact hystUp_usCount h

/-- The tick advances the time base; the finalisation and the controller's step leave it (rules R110, R111). -/
theorem exec_usTick_usCount {s t : State} (h : exec .usTick s = .next t) : t.usCount = (s.usCount + 1) % 2 ^ s.params.tsw :=
  calc t.usCount
    _ = (finalizeAtTick (timebase s)).usCount := runFsmRow_usCount _ h
    _ = (timebase s).usCount := by simp
    _ = (s.usCount + 1) % 2 ^ s.params.tsw := rfl

end Sys2Proof.Machine

namespace Sys2Proof.Proofs

open Sys2Proof.Machine

/-- Settles O35: the tick's `TIMEBASE` advances `usCount`, and every other operation but `RESET` leaves it (rule R111). -/
theorem timeBaseAdvancesOnlyAtTicks : Obligations.TimeBaseAdvancesOnlyAtTicks := by
  intro i s t h hr
  by_cases ht : i = .usTick
  · subst ht
    rw [if_pos rfl, exec_usTick_usCount h]
  · rw [if_neg ht, exec_usCount hr ht h]

end Sys2Proof.Proofs
end

section
/-! SUPPORT. The controller's states outside an injection's bits and the two symbols as an equation per variant, and the statements about
them (rules R113, R114, R116, R118, R119, R121). -/

namespace Sys2Proof.Machine

theorem exec_waitReq (s : State) :
    exec .waitReq s = if s.reqPending then .next { s with reqPending := false, fsm := 2 } else .next s := rfl

theorem exec_start (s : State) :
    exec .start s = .next { takeGate (driveDataLow s) with
      injectionRunning := true, round := 0, sym := 0, delayCnt := 0, fsm := 3 } := rfl

theorem exec_endInjection (s : State) :
    exec .endInjection s = .next { releaseGate (releaseData s) with injectionRunning := false, fsm := 1 } := rfl

/-- The older-drive variant forces the gate line low (rule R114). -/
theorem takeGate_of_older {s : State} (hm : s.pu22Mode = false) : takeGate s = { s with gateDir := true, gateOut := false } :=
  if_neg (by simp [hm])

theorem takeGate_of_pu22 {s : State} (hm : s.pu22Mode = true) : takeGate s = s := if_pos hm

/-- The older-drive variant releases the gate line (rule R121). -/
theorem releaseGate_of_older {s : State} (hm : s.pu22Mode = false) : releaseGate s = { s with gateDir := false } :=
  if_neg (by simp [hm])

theorem releaseGate_of_pu22 {s : State} (hm : s.pu22Mode = true) : releaseGate s = s := if_pos hm

theorem exec_sym0 (s : State) : exec .sym0 s = .next { s with pu22Inject := false, dataDir := true, dataOut := false } :=
  runSymbol_eq 0 s

theorem exec_sym1 (s : State) :
    exec .sym1 s = .next (if s.pu22Mode then { s with dataDir := true, pu22Inject := true } else { s with dataDir := false }) :=
  runSymbol_eq 1 s

/-- A delay that runs is counted down before anything else (rule R116). -/
theorem send_of_delay (r : Region) {s : State} (hd : s.delayCnt ≠ 0) : send r s = .next { s with delayCnt := s.delayCnt - 1 } :=
  send_eq_next.mpr (.inl ⟨hd, rfl⟩)

end Sys2Proof.Machine

namespace Sys2Proof.Proofs

open Sys2Proof.Machine

/-- Settles O40: the two cases of the request slot (rule R113). -/
theorem waitReqConsumesTheRequest : Obligations.WaitReqConsumesTheRequest := by
  refine ⟨fun s hp => ?empty, fun s hp => ?pending⟩
  case empty => rw [exec_waitReq, hp, if_neg Bool.false_ne_true]
  case pending => rw [exec_waitReq, if_pos hp]

/-- Settles O41: the variants differ in `takeGate` only (rule R114). -/
theorem startTakesTheLines : Obligations.StartTakesTheLines := by
  refine ⟨fun s hm => ?older, fun s hm => ?pu22⟩
  case older => rw [exec_start, takeGate_of_older (s := driveDataLow s) hm, driveDataLow]
  case pu22 => rw [exec_start, takeGate_of_pu22 (s := driveDataLow s) hm, driveDataLow]

/-- Settles O42: the variants differ in `releaseGate` only (rule R121). -/
theorem endReleasesTheLines : Obligations.EndReleasesTheLines := by
  refine ⟨fun s hm => ?older, fun s hm => ?pu22⟩
  case older => rw [exec_endInjection, releaseGate_of_older (s := releaseData s) hm, releaseData]
  case pu22 => rw [exec_endInjection, releaseGate_of_pu22 (s := releaseData s) hm, releaseData]

/-- Settles O44: the symbol's equation at 0, which does not ask for the variant (rule R118). -/
theorem symbolZeroDrivesLow : Obligations.SymbolZeroDrivesLow := exec_sym0

/-- Settles O45: the symbol's equation at 1, by the variant (rule R119). -/
theorem symbolOneReleasesOrPassesThrough : Obligations.SymbolOneReleasesOrPassesThrough := by
  refine ⟨fun s hm => ?older, fun s hm => ?pu22⟩
  case older => rw [exec_sym1, hm, if_neg Bool.false_ne_true]
  case pu22 => rw [exec_sym1, if_pos hm]

/-- Settles O46: each `SEND` state is `send` of its own string, and the count-down does not depend on the string (rule R116). -/
theorem sendCountsDownItsDelay : Obligations.SendCountsDownItsDelay := by
  intro s hd
  exact ⟨send_of_delay .scee hd, send_of_delay .scea hd, send_of_delay .scei hd⟩

end Sys2Proof.Proofs
end

section
/-! SUPPORT. `RESET` as an equation with the state after reset, and the statement about it (rules R37, R160). -/

namespace Sys2Proof.Machine

/-- From every state `RESET` leads to the state after reset, but for what is no register of the block: the parameters and the input
side (rules R34, R37, R160). -/
theorem exec_reset (s : State) :
    exec .reset s = .next { State.reset with params := s.params, stimulus := s.stimulus, freeIdx := s.freeIdx } := rfl

end Sys2Proof.Machine

namespace Sys2Proof.Proofs

open Sys2Proof.Machine

/-- Settles O12: the registers are those of `State.reset`, whose buffer lists no byte, and `rst` is the first case of a cycle's order
(rules R62, R160). -/
theorem resetGivesEveryRegisterItsValue : Obligations.ResetGivesEveryRegisterItsValue := by
  refine ⟨fun s => ⟨_, exec_reset s, ?registers⟩, fun s v vs hwf hv h5 => ?cycle⟩
  case registers => simp only [State.reset, Memory.read_nil, unlistedByte, implies_true, and_self]
  case cycle => exact (cyclePerformsResetAloneElseInOrder s v vs hwf hv).1 h5

end Sys2Proof.Proofs
end

section
/-! SUPPORT. A packet operation is well formed exactly when its row is the one the packet table selects; the encodings of every format
read back; and the statements about the decoder and the encoder (rules R61, R66, R71, R90, R130). -/

namespace Sys2Proof

theorem byte3In_iff {lo hi : Nat} {p : PacketWord} :
    byte3In lo hi p = true ↔ lo ≤ (pktByte p 3).toNat ∧ (pktByte p 3).toNat ≤ hi := by
  simp [byte3In]

/-- The range test of rule R90 on `b3` is the union of the five aligned blocks of rule R66. -/
theorem byte3_range_eq_blocks (p : PacketWord) :
    (decide (0x98 ≤ (pktByte p 3).toNat) || decide ((pktByte p 3).toNat ≤ 0x02)) =
      (byte3In 0x00 0x01 p || byte3In 0x02 0x02 p || byte3In 0x98 0x9F p || byte3In 0xA0 0xBF p || byte3In 0xC0 0xFF p) := by
  have hlt := (pktByte p 3).isLt
  rw [Bool.eq_iff_iff]
  simp only [Bool.or_eq_true, decide_eq_true_eq, byte3In_iff]
  omega

/-- `PRIMARY` holds exactly when the byte tests of one of the eight primary rows do (rules R66, R90). -/
theorem primaryMatch_eq_rows (g : Grouping) (p : PacketWord) :
    primaryMatch g p =
      (isARow 0xA0 p || isARow 0xA1 p || isARow 0xA2 p || is01Row g 0x00 0x01 p || is01Row g 0x02 0x02 p ||
        is01Row g 0x98 0x9F p || is01Row g 0xA0 0xBF p || is01Row g 0xC0 0xFF p) := by
  cases g <;>
    simp only [primaryMatch, point01, byte3_range_eq_blocks, pointA, isARow, is01Row, guardedPrefix, Bool.and_or_distrib_left,
      Bool.or_assoc, Bool.true_and, Bool.and_assoc]

/-- Without `PRIMARY` only the two secondary rows are left to try (rule R66). -/
theorem pktRow_of_not_primary {g : Grouping} {hp : Bool} {p : PacketWord} (h : primaryMatch g p = false) :
    pktRow g hp p =
      if hp && (flagByte (pktByte p 0) && guardBytes p) then .secondaryFlag
      else if hp && (pktByte p 0 == 0x01 && guardBytes p) then .secondary01
      else .other := by
  simp only [primaryMatch_eq_rows, Bool.or_eq_false_iff] at h
  obtain ⟨⟨⟨⟨⟨⟨⟨hA0, hA1⟩, hA2⟩, h1⟩, h2⟩, h98⟩, hA⟩, hC⟩ := h
  simp only [pktRow_eq, hA0, hA1, hA2, h1, h2, h98, hA, hC, Bool.false_eq_true, if_false]

/-- `SECONDARY` holds exactly when one of the two secondary rows fits (rules R66, R90). -/
theorem secondaryMatch_eq_rows (hp : Bool) (p : PacketWord) :
    secondaryMatch hp p = (hp && (flagByte (pktByte p 0) && guardBytes p) || hp && (pktByte p 0 == 0x01 && guardBytes p)) := by
  rw [secondaryMatch, ← Bool.and_or_distrib_left, ← Bool.and_or_distrib_right, Bool.or_comm, Bool.and_assoc]

/-- The row that the packet table selects is one whose byte tests the packet satisfies (rule R66). -/
theorem wf_instr_pktRow (c : DecodeCtx) (p : PacketWord) : ((pktRow c.grouping c.hystPositive p).instr p).wf c = true := by
  cases hprim : primaryMatch c.grouping p with
  | false =>
    rw [pktRow_of_not_primary hprim]
    split_ifs with hflag h01
    · simpa [PktRow.instr, Instr.wf, hprim, and_assoc] using hflag
    · simpa [PktRow.instr, Instr.wf, hprim, and_assoc] using h01
    · simp only [PktRow.instr, Instr.wf, hprim, secondaryMatch_eq_rows, hflag, h01, Bool.or_self, Bool.not_false, Bool.and_self]
  | true =>
    rw [pktRow_eq]
    split_ifs with hA0 hA1 hA2 h1 h2 h98 hA hC
    · exact hA0
    · exact hA1
    · exact hA2
    · exact h1
    · exact h2
    · exact h98
    · exact hA
    · exact hC
    all_goals simp only [primaryMatch_eq_rows, hA0, hA1, hA2, h1, h2, h98, hA, hC, Bool.or_self, Bool.false_eq_true] at hprim

theorem not_isARow_of_byte2 {b2 : Byte} {p : PacketWord} (h : pktByte p 2 ≠ b2) : ¬ isARow b2 p = true := by
  simp [isARow, h]

theorem byte2_of_isARow {b2 : Byte} {p : PacketWord} (h : isARow b2 p = true) : pktByte p 2 = b2 := by
  simp only [isARow, Bool.and_eq_true, beq_iff_eq] at h
  exact h.2

theorem bytes_of_is01Row {g : Grouping} {lo hi : Nat} {p : PacketWord} (h : is01Row g lo hi p = true) :
    pktByte p 2 = 0x01 ∧ lo ≤ (pktByte p 3).toNat ∧ (pktByte p 3).toNat ≤ hi := by
  simp only [is01Row, Bool.and_eq_true, beq_iff_eq, byte3In_iff] at h
  exact ⟨h.1.2, h.2⟩

/-- Rows for `b2 == 0x01` with `b3` in ranges one above the other exclude each other. -/
theorem not_is01Row_below {g : Grouping} {lo hi lo' hi' : Nat} {p : PacketWord} (h : is01Row g lo hi p = true) (hlt : hi' < lo) :
    ¬ is01Row g lo' hi' p = true := fun h' => by
  obtain ⟨-, hlo, -⟩ := bytes_of_is01Row h
  obtain ⟨-, -, hhi⟩ := bytes_of_is01Row h'
  omega

/-- A packet with `b2 == 0x01` goes past the rows for 0xA0, 0xA1 and 0xA2 (rule R66). -/
theorem pktRow_of_is01Row {g : Grouping} {lo hi : Nat} {hp : Bool} {p : PacketWord} (h : is01Row g lo hi p = true) :
    pktRow g hp p =
      if is01Row g 0x00 0x01 p then .primary01Lo01
      else if is01Row g 0x02 0x02 p then .primary01Lo2
      else if is01Row g 0x98 0x9F p then .primary01Hi98
      else if is01Row g 0xA0 0xBF p then .primary01HiA0
      else if is01Row g 0xC0 0xFF p then .primary01HiC0
      else if hp && (flagByte (pktByte p 0) && guardBytes p) then .secondaryFlag
      else if hp && (pktByte p 0 == 0x01 && guardBytes p) then .secondary01
      else .other := by
  obtain ⟨hb, -, -⟩ := bytes_of_is01Row h
  have hA : ∀ b2 : Byte, 0x01 ≠ b2 → ¬ isARow b2 p = true := fun b2 hne => not_isARow_of_byte2 (by rw [hb]; exact hne)
  rw [pktRow_eq, if_neg (hA _ (by decide)), if_neg (hA _ (by decide)), if_neg (hA _ (by decide))]

/-- A packet that satisfies the byte tests of a row selects that row: every row above it asks for another `b2`, another `b3` or another
`b0` (rule R66). -/
theorem pktRow_of_wf {c : DecodeCtx} {r : PktRow} {p : PacketWord} (h : (r.instr p).wf c = true) :
    pktRow c.grouping c.hystPositive p = r := by
  cases r <;> simp only [PktRow.instr, Instr.wf, Bool.and_eq_true, Bool.not_eq_true'] at h
  case primaryA0 => rw [pktRow_eq, if_pos h]
  case primaryA1 =>
    have hA : ∀ b2 : Byte, 0xA1 ≠ b2 → ¬ isARow b2 p = true := fun b2 hne => not_isARow_of_byte2 (by rw [byte2_of_isARow h]; exact hne)
    rw [pktRow_eq, if_neg (hA _ (by decide)), if_pos h]
  case primaryA2 =>
    have hA : ∀ b2 : Byte, 0xA2 ≠ b2 → ¬ isARow b2 p = true := fun b2 hne => not_isARow_of_byte2 (by rw [byte2_of_isARow h]; exact hne)
    rw [pktRow_eq, if_neg (hA _ (by decide)), if_neg (hA _ (by decide)), if_pos h]
  case primary01Lo01 => rw [pktRow_of_is01Row h, if_pos h]
  case primary01Lo2 => rw [pktRow_of_is01Row h, if_neg (not_is01Row_below h (by decide)), if_pos h]
  case primary01Hi98 =>
    rw [pktRow_of_is01Row h, if_neg (not_is01Row_below h (by decide)), if_neg (not_is01Row_below h (by decide)), if_pos h]
  case primary01HiA0 =>
    rw [pktRow_of_is01Row h, if_neg (not_is01Row_below h (by decide)), if_neg (not_is01Row_below h (by decide)),
      if_neg (not_is01Row_below h (by decide)), if_pos h]
  case primary01HiC0 =>
    rw [pktRow_of_is01Row h, if_neg (not_is01Row_below h (by decide)), if_neg (not_is01Row_below h (by decide)),
      if_neg (not_is01Row_below h (by decide)), if_neg (not_is01Row_below h (by decide)), if_pos h]
  case secondaryFlag =>
    obtain ⟨⟨⟨hp, hprim⟩, hf⟩, hg⟩ := h
    rw [pktRow_of_not_primary hprim, hp, hf, hg]
    rfl
  case secondary01 =>
    obtain ⟨⟨⟨hp, hprim⟩, h1⟩, hg⟩ := h
    rw [pktRow_of_not_primary hprim, hp, h1, hg, eq_of_beq h1]
    rfl
  case other =>
    obtain ⟨hprim, hsec⟩ := h
    rw [pktRow_of_not_primary hprim]
    simp only [secondaryMatch_eq_rows, Bool.or_eq_false_iff] at hsec
    simp only [hsec.1, hsec.2, Bool.false_eq_true, if_false]

/-- The class of a row is the class that the predicates give its packets (rules R66, R90). -/
theorem pktClass_of_wf {c : DecodeCtx} {r : PktRow} {p : PacketWord} (h : (r.instr p).wf c = true) :
    pktClass c.grouping c.hystPositive p = r.cls := by
  cases r <;> simp only [PktRow.instr, Instr.wf, Bool.and_eq_true, Bool.not_eq_true'] at h
  case secondaryFlag =>
    obtain ⟨⟨⟨hp, hprim⟩, hf⟩, hg⟩ := h
    simp [pktClass, secondaryMatch, PktRow.cls, hp, hprim, hf, hg]
  case secondary01 =>
    obtain ⟨⟨⟨hp, hprim⟩, h1⟩, hg⟩ := h
    simp [pktClass, secondaryMatch, PktRow.cls, hp, hprim, eq_of_beq h1, hg]
  case other =>
    obtain ⟨hprim, hsec⟩ := h
    simp [pktClass, PktRow.cls, hprim, hsec]
  -- the eight primary rows
  all_goals
    have hprim : primaryMatch c.grouping p = true := by simp only [primaryMatch_eq_rows, h, Bool.or_true, Bool.true_or]
    simp only [pktClass, hprim, if_true, PktRow.cls]

/-! ## Encodings -/

/-- The value of every operation's word fits its format (rule R71). -/
theorem encodeValue_lt (i : Instr) : encodeValue i < 2 ^ i.format.bits := by
  cases i
  case sqckRise d => exact (Laws.EncodedLength.sqckRise d).2
  case gateEdge l => exact (Laws.EncodedLength.gateEdge l).2
  case strScee => exact Laws.EncodedLength.strScee.2
  case strScea => exact Laws.EncodedLength.strScea.2
  case strScei => exact Laws.EncodedLength.strScei.2
  case pktPrimaryA0 p | pktPrimaryA1 p | pktPrimaryA2 p | pktPrimary01Lo01 p | pktPrimary01Lo2 p | pktPrimary01Hi98 p |
      pktPrimary01HiA0 p | pktPrimary01HiC0 p | pktSecondaryFlag p | pktSecondary01 p | pktOther p => exact p.isLt
  all_goals simp only [encodeValue, Instr.format, Format.bits]; decide

theorem format_bits_le (f : Format) : f.bits ≤ 8 * f.byteCount := by cases f <;> decide

/-- The bytes of an operation's word are read as its value. -/
theorem decode_encode (c : DecodeCtx) (i : Instr) : decode c i.format (encode i) = decodeValue c i.format (encodeValue i) := by
  have hlt : encodeValue i < 2 ^ (8 * i.format.byteCount) :=
    (encodeValue_lt i).trans_le (Nat.pow_le_pow_right (by decide) (format_bits_le i.format))
  rw [decode, encode, if_pos (leBytes_length _ _), leValue_leBytes _ _ hlt]

theorem decodePkt96_of_wf {c : DecodeCtx} {r : PktRow} {p : PacketWord} (h : (r.instr p).wf c = true) :
    decodeValue c .pkt96 p.toNat = .ok [r.instr p] := by
  simp only [decodeValue, decodePkt96, BitVec.ofNat_toNat, BitVec.setWidth_eq, pktRow_of_wf h]

theorem decodeValue_iv6 (c : DecodeCtx) (v : InputVector) : decodeValue c .iv6 v.toNat = .ok (decodeIV6 c.order v) := by
  simp only [decodeValue, BitVec.ofNat_toNat, BitVec.setWidth_eq, if_pos v.isLt]

/-- One strobe alone is one operation in every order (rule R62). -/
theorem decodeIV6_single (o : CoincidentOrder) (b : Bool) :
    decodeIV6 o (BitVec.ofNat 6 (0x02 + b.toNat)) = [.sqckRise b] ∧
    decodeIV6 o (BitVec.ofNat 6 (0x08 + 4 * b.toNat)) = [.gateEdge b] ∧ decodeIV6 o 0x10 = [.usTick] := by
  revert b; cases o <;> decide

end Sys2Proof

namespace Sys2Proof.Proofs

open Sys2Proof

/-- Settles O8: the bytes give back the word's value, and the value decodes by its format; a packet's row is found by
`pktRow_of_wf` (rule R66). -/
theorem decodeOfEncodeIsTheOperation : Obligations.DecodeOfEncodeIsTheOperation := by
  intro c i h
  rw [decode_encode]
  cases i
  case reset => exact congrArg _ (decodeIV6_reset rfl)
  case nop => exact congrArg _ (decodeIV6_nop rfl rfl rfl rfl)
  case sqckRise d => cases d <;> exact congrArg _ (decodeIV6_single c.order _).1
  case gateEdge l => cases l <;> exact congrArg _ (decodeIV6_single c.order _).2.1
  case usTick => exact congrArg _ (decodeIV6_single c.order true).2.2
  case pktPrimaryA0 p => exact decodePkt96_of_wf (r := .primaryA0) h
  case pktPrimaryA1 p => exact decodePkt96_of_wf (r := .primaryA1) h
  case pktPrimaryA2 p => exact decodePkt96_of_wf (r := .primaryA2) h
  case pktPrimary01Lo01 p => exact decodePkt96_of_wf (r := .primary01Lo01) h
  case pktPrimary01Lo2 p => exact decodePkt96_of_wf (r := .primary01Lo2) h
  case pktPrimary01Hi98 p => exact decodePkt96_of_wf (r := .primary01Hi98) h
  case pktPrimary01HiA0 p => exact decodePkt96_of_wf (r := .primary01HiA0) h
  case pktPrimary01HiC0 p => exact decodePkt96_of_wf (r := .primary01HiC0) h
  case pktSecondaryFlag p => exact decodePkt96_of_wf (r := .secondaryFlag) h
  case pktSecondary01 p => exact decodePkt96_of_wf (r := .secondary01) h
  case pktOther p => exact decodePkt96_of_wf (r := .other) h
  -- the state codes, the symbols and the strings
  all_goals rfl

/-- Settles O10: the selected row's byte tests hold, and they decide the predicates (rules R66, R90). -/
theorem packetRowsAgreeWithPredicates : Obligations.PacketRowsAgreeWithPredicates := by
  intro g h p
  exact (pktClass_of_wf (wf_instr_pktRow { order := .sgt, grouping := g, hystPositive := h } p)).symm

end Sys2Proof.Proofs
end

section
/-! SUPPORT. The decoded list of an input vector: its order, the bits it depends on, its operations; the stimulus lines; and a step as the
decoded list of its vector; with the statements about them (rules R61, R62, R67, R68, R70, R73). -/

namespace Sys2Proof

/-- The orders differ in nothing but the order (decision D2). -/
theorem decodeIV6_perm (o : CoincidentOrder) (v : InputVector) : (decodeIV6 o v).Perm (decodeIV6 .sgt v) := by
  unfold decodeIV6
  split
  · exact .refl _
  · split
    · exact .refl _
    · rw [List.perm_iff_count]
      intro i
      cases o <;> simp only [List.count_append] <;> omega

theorem decodeIV6_ne_nil (o : CoincidentOrder) (v : InputVector) : decodeIV6 o v ≠ [] := by
  have hsgt : decodeIV6 .sgt v ≠ [] := by revert v; decide
  exact fun h => hsgt (h ▸ decodeIV6_perm o v).nil_eq.symm

/-- Without `rst` the strobes, and the operands of the strobes that are 1, decide the decoded list (rules R61, R69). -/
theorem decodeIV6_congr {o : CoincidentOrder} {v w : InputVector} (hv5 : v.getLsbD 5 = false) (hw5 : w.getLsbD 5 = false)
    (hn : ivIsNop v = ivIsNop w) (hs : ivSqckOps v = ivSqckOps w) (hg : ivGateOps v = ivGateOps w) (ht : ivTickOps v = ivTickOps w) :
    decodeIV6 o v = decodeIV6 o w := by
  have hv : ivIsReset v = false := (iv_strobes v).1.trans hv5
  have hw : ivIsReset w = false := (iv_strobes w).1.trans hw5
  simp only [decodeIV6, hv, hw, hn, hs, hg, ht]

/-- What an operation of a decoded vector is (rules R61, R72). -/
theorem wf_of_mem_decodeIV6 {c : DecodeCtx} {o : CoincidentOrder} {v : InputVector} {i : Instr} (h : i ∈ decodeIV6 o v) :
    i.wf c = true ∧ i.format = .iv6 := by
  cases h5 : v.getLsbD 5 with
  | true =>
    rw [decodeIV6_reset h5, List.mem_singleton] at h
    subst h
    exact ⟨rfl, rfl⟩
  | false =>
    rcases mem_decodeIV6 h5 h with rfl | ⟨-, rfl⟩ | ⟨-, rfl⟩ | ⟨-, rfl⟩ <;> exact ⟨rfl, rfl⟩

theorem format_instr_pktRow (r : PktRow) (p : PacketWord) : (r.instr p).format = .pkt96 := by cases r <;> rfl

/-- A controller state code has a well-formed operation of its format (rule R67). -/
theorem wf_decodeFsm3 (c : DecodeCtx) (code : FsmCode) : (decodeFsm3 code).wf c = true ∧ (decodeFsm3 code).format = .fsm3 := by
  rw [decodeFsm3]
  cases fsmRow code <;> exact ⟨rfl, rfl⟩

theorem wf_decodeSym1 (c : DecodeCtx) (b : SymbolCode) : (decodeSym1 b).wf c = true ∧ (decodeSym1 b).format = .sym1 := by
  unfold decodeSym1
  split <;> exact ⟨rfl, rfl⟩

theorem wf_instr_region (c : DecodeCtx) (r : Region) : r.instr.wf c = true ∧ r.instr.format = .str44 := by
  cases r <;> exact ⟨rfl, rfl⟩

/-- Every value that decodes gives well-formed operations of its format, and at least one (rules R61, R66, R67, R68, R130). -/
theorem decodeValue_sound {c : DecodeCtx} {f : Format} {v : Nat} {is : List Instr} (h : decodeValue c f v = .ok is) :
    is ≠ [] ∧ ∀ i ∈ is, i.wf c = true ∧ i.format = f := by
  have single {i : Instr} (hw : i.wf c = true ∧ i.format = f) : [i] ≠ [] ∧ ∀ j ∈ [i], j.wf c = true ∧ j.format = f :=
    ⟨List.cons_ne_nil _ _, fun j hj => List.mem_singleton.mp hj ▸ hw⟩
  cases f <;> simp only [decodeValue] at h
  case iv6 =>
    split at h
    · cases h
      exact ⟨decodeIV6_ne_nil _ _, fun i hi => wf_of_mem_decodeIV6 hi⟩
    · cases h
  case fsm3 =>
    split at h
    · cases h
      exact single (wf_decodeFsm3 c _)
    · cases h
  case sym1 =>
    split at h
    · cases h
      exact single (wf_decodeSym1 c _)
    · cases h
  case pkt96 =>
    cases h
    exact single ⟨wf_instr_pktRow c _, format_instr_pktRow _ _⟩
  case str44 =>
    split at h
    · cases h
      exact single (wf_instr_region c _)
    · cases h

end Sys2Proof

namespace Sys2Proof.Machine

/-! ## Stimulus lines (rule R73) -/

/-- The strobes of a line of events are its events. -/
theorem lineVector_strobes {l : StimLine} (h : l.eventsOnly = true) :
    (lineVector l).getLsbD 5 = false ∧ (lineVector l).getLsbD 4 = lineTicks l ∧
    (lineVector l).getLsbD 3 = (lineLevel l).isSome ∧ (lineVector l).getLsbD 1 = (lineSample l).isSome := by
  induction l with
  | rst | nop => cases h
  | sqck d => cases d <;> decide
  | gate d => cases d <;> decide
  | tick => decide
  | plus a b iha ihb =>
    simp only [StimLine.eventsOnly, Bool.and_eq_true] at h
    obtain ⟨a5, a4, a3, a1⟩ := iha h.1
    obtain ⟨b5, b4, b3, b1⟩ := ihb h.2
    simp only [lineVector, lineTicks, lineLevel, lineSample, BitVec.getLsbD_or, a5, a4, a3, a1, b5, b4, b3, b1, Bool.or_self,
      Option.isSome_or, and_self]

/-- A line of events has an event. -/
theorem line_has_event {l : StimLine} (h : l.eventsOnly = true) :
    lineTicks l = true ∨ (lineLevel l).isSome = true ∨ (lineSample l).isSome = true := by
  induction l with
  | rst | nop => cases h
  | sqck d => exact .inr (.inr rfl)
  | gate d => exact .inr (.inl rfl)
  | tick => exact .inl rfl
  | plus a b iha _ =>
    simp only [StimLine.eventsOnly, Bool.and_eq_true] at h
    simp only [lineTicks, lineLevel, lineSample, Option.isSome_or, Bool.or_eq_true]
    exact (iha h.1).imp .inl (.imp .inl .inl)

theorem lineSample_eq_none {l : StimLine} (h : l.sqckCount = 0) : lineSample l = none := by
  induction l with
  | rst | nop | gate _ | tick => rfl
  | sqck d => cases h
  | plus a b iha ihb =>
    obtain ⟨ha, hb⟩ := Nat.add_eq_zero_iff.mp h
    rw [lineSample, iha ha, ihb hb, Option.or_none]

theorem lineLevel_eq_none {l : StimLine} (h : l.gateCount = 0) : lineLevel l = none := by
  induction l with
  | rst | nop | sqck _ | tick => rfl
  | gate d => cases h
  | plus a b iha ihb =>
    obtain ⟨ha, hb⟩ := Nat.add_eq_zero_iff.mp h
    rw [lineLevel, iha ha, ihb hb, Option.or_none]

theorem getD_or_of_exclusive {a b : Option Bool} (h : a = none ∨ b = none) : (a.or b).getD false = (a.getD false || b.getD false) := by
  rcases h with rfl | rfl
  · rw [Option.none_or]
    rfl
  · rw [Option.or_none]
    exact (Bool.or_false _).symm

/-- Where `SQCK` stands at most once, the bit `subq` is its sample. -/
theorem lineVector_subq {l : StimLine} (h : l.eventsOnly = true) (hc : l.sqckCount ≤ 1) :
    (lineVector l).getLsbD 0 = (lineSample l).getD false := by
  induction l with
  | rst | nop => cases h
  | sqck d => cases d <;> decide
  | gate d => cases d <;> decide
  | tick => decide
  | plus a b iha ihb =>
    simp only [StimLine.eventsOnly, Bool.and_eq_true] at h
    simp only [StimLine.sqckCount] at hc
    have hex : lineSample a = none ∨ lineSample b = none := by
      rcases Nat.eq_zero_or_pos a.sqckCount with ha | ha
      · exact .inl (lineSample_eq_none ha)
      · exact .inr (lineSample_eq_none (by omega))
    rw [lineVector, lineSample, BitVec.getLsbD_or, iha h.1 (by omega), ihb h.2 (by omega), getD_or_of_exclusive hex]

/-- Where `GATE` stands at most once, the bit `gate_level` is its level. -/
theorem lineVector_gateLevel {l : StimLine} (h : l.eventsOnly = true) (hc : l.gateCount ≤ 1) :
    (lineVector l).getLsbD 2 = (lineLevel l).getD false := by
  induction l with
  | rst | nop => cases h
  | sqck d => cases d <;> decide
  | gate d => cases d <;> decide
  | tick => decide
  | plus a b iha ihb =>
    simp only [StimLine.eventsOnly, Bool.and_eq_true] at h
    simp only [StimLine.gateCount] at hc
    have hex : lineLevel a = none ∨ lineLevel b = none := by
      rcases Nat.eq_zero_or_pos a.gateCount with ha | ha
      · exact .inl (lineLevel_eq_none ha)
      · exact .inr (lineLevel_eq_none (by omega))
    rw [lineVector, lineLevel, BitVec.getLsbD_or, iha h.1 (by omega), ihb h.2 (by omega), getD_or_of_exclusive hex]

/-- A well-formed line has each event at most once. -/
theorem counts_of_wf {l : StimLine} (h : l.wf = true) : l.sqckCount ≤ 1 ∧ l.gateCount ≤ 1 := by
  cases l with
  | plus a b =>
    simp only [StimLine.wf, Bool.and_eq_true, decide_eq_true_eq] at h
    obtain ⟨⟨⟨-, hs⟩, hg⟩, -⟩ := h
    exact ⟨hs, hg⟩
  | rst | nop | sqck _ | gate _ | tick => simp [StimLine.sqckCount, StimLine.gateCount]

/-- With a strobe the default order lists the three strobes' operations (rule R62). -/
theorem decodeIV6_sgt_of_strobe {v : InputVector} (h5 : v.getLsbD 5 = false)
    (h : v.getLsbD 4 = true ∨ v.getLsbD 3 = true ∨ v.getLsbD 1 = true) :
    decodeIV6 .sgt v = ivSqckOps v ++ ivGateOps v ++ ivTickOps v := by
  obtain ⟨hr, -, -, -, hn⟩ := iv_strobes v
  have hnop : ivIsNop v = false := by
    rw [hn, h5]
    rcases h with h | h | h <;> simp [h]
  rw [decodeIV6, if_neg (by rw [hr, h5]; decide), if_neg (by rw [hnop]; decide)]

theorem option_toList_eq {α : Type} (f : Bool → α) (x : Option Bool) :
    (if x.isSome then [f (x.getD false)] else []) = (x.map f).toList := by
  cases x <;> rfl

/-! ## The step -/

/-- The byte of an input vector decodes to the vector's operations (rules R61, R71). -/
theorem decode_vector (c : DecodeCtx) (v : InputVector) : decode c .iv6 [v.setWidth 8] = .ok (decodeIV6 c.order v) := by
  have hval : leValue [v.setWidth 8] = v.toNat := by
    have := v.isLt
    simp only [leValue, BitVec.toNat_setWidth]
    omega
  rw [decode, if_pos (show [v.setWidth 8].length = Format.iv6.byteCount from rfl), hval, decodeValue_iv6]

theorem runOps_singleton (i : Instr) : runOps [i] = exec i := by
  funext s
  rw [runOps_cons]
  cases exec i s <;> rfl

end Sys2Proof.Machine

namespace Sys2Proof.Proofs

open Sys2Proof.Machine

/-- Settles O9: by the format, with the packet's row from `wf_instr_pktRow`. -/
theorem decodedOperationsAreWellFormed : Obligations.DecodedOperationsAreWellFormed := by
  intro c f bs is h
  unfold decode at h
  split at h
  · exact decodeValue_sound h
  · cases h

/-- Settles O11: the line's vector has the line's strobes, and with each event at most once its operands too (rule R73). -/
theorem assembledLinesPerformTheirEvents : Obligations.AssembledLinesPerformTheirEvents := by
  intro l hwf he
  obtain ⟨h5, h4, h3, h1⟩ := lineVector_strobes he
  obtain ⟨hs, hg⟩ := counts_of_wf hwf
  obtain ⟨hsqck, hgate, htick⟩ := iv_strobeOps h5
  have hev := line_has_event he
  rw [← h4, ← h3, ← h1] at hev
  rw [decodeIV6_sgt_of_strobe h5 hev, hsqck, hgate, htick, h4, h3, h1, lineVector_subq he hs, lineVector_gateLevel he hg,
    option_toList_eq, option_toList_eq, lineOps]

/-- Settles O1: the decoder reads the vector's list, and the step performs it on the state without the vector (rules R46, R48, R61). -/
theorem stepRunsTheDecodedOperation : Obligations.StepRunsTheDecodedOperation := by
  intro s v vs hwf hv
  have hlist : ∀ ops, decode (decodeCtx s) .iv6 [v.setWidth 8] = .ok ops → step s = runOps ops { s with stimulus := vs } := by
    intro ops hops
    rw [decode_vector] at hops
    cases hops
    exact step_eq_runOps hwf hv
  refine ⟨fun i hi _ => ?_, hlist⟩
  rw [hlist [i] hi, runOps_singleton]

/-- Settles O2: with an empty trace the step takes the free vector (notes/assumptions/2.md). -/
theorem stepBeyondTheTraceRunsAFreeVector : Obligations.StepBeyondTheTraceRunsAFreeVector := by
  intro s hwf hv
  simp only [step, hwf, if_true, cycle, runVector, nextVector, takeVector, hv]

/-- Settles O5: counting each operation in the six orders; the default order's list is not empty (decision D2). -/
theorem everyOrderPerformsTheSameOperations : Obligations.EveryOrderPerformsTheSameOperations :=
  fun o v => ⟨decodeIV6_perm o v, decodeIV6_ne_nil o v⟩

/-- Settles O6: `rst` decides alone; without it the list depends on the strobes and on the operands of those that are 1
(rules R61, R70). -/
theorem untestedInputBitsAreIgnored : Obligations.UntestedInputBitsAreIgnored := by
  intro o v w
  refine ⟨decodeIV6_reset, fun e5 e4 e3 e1 e2 e0 => ?_⟩
  cases h5 : v.getLsbD 5 with
  | true => rw [decodeIV6_reset h5, decodeIV6_reset (e5 ▸ h5)]
  | false =>
    have hw5 : w.getLsbD 5 = false := e5 ▸ h5
    obtain ⟨-, -, -, -, hnv⟩ := iv_strobes v
    obtain ⟨-, -, -, -, hnw⟩ := iv_strobes w
    obtain ⟨hsv, hgv, htv⟩ := iv_strobeOps h5
    obtain ⟨hsw, hgw, htw⟩ := iv_strobeOps hw5
    refine decodeIV6_congr h5 hw5 ?nop ?sqck ?gate ?tick
    case nop => rw [hnv, hnw, e5, e4, e3, e1]
    case sqck =>
      rw [hsv, hsw, ← e1]
      split
      · rename_i h; rw [e0 h]
      · rfl
    case gate =>
      rw [hgv, hgw, ← e3]
      split
      · rename_i h; rw [e2 h]
      · rfl
    case tick => rw [htv, htw, e4]

/-- Settles O7: each word evaluated. -/
theorem wordsOfTheSpecDecode : Obligations.WordsOfTheSpecDecode := by
  unfold Obligations.WordsOfTheSpecDecode
  decide

end Sys2Proof.Proofs
end

section
/-! SUPPORT. The packet buffer as canonical data, the packet classes, and `SQCK_RISE` as an equation per case; with the statements about
them (rules R40, R80 to R84, R90 to R95). -/

namespace Sys2Proof.Machine

/-- A canonical buffer reads as unlisted from index 12 on. -/
theorem Memory.read_above {lo a : Nat} {m : Memory} (h : Memory.wfFrom lo m = true) (ha : 12 ≤ a) :
    Memory.read m a = unlistedByte := by
  induction m generalizing lo with
  | nil => rfl
  | cons c m ih =>
    obtain ⟨b, w⟩ := c
    simp only [Memory.wfFrom, Bool.and_eq_true, decide_eq_true_eq, Config.pktBytes] at h
    obtain ⟨⟨⟨-, hb⟩, -⟩, hm⟩ := h
    have hne : b ≠ a := fun e => absurd (of_decide_eq_true hb) (by omega)
    rw [Memory.read, if_neg hne]
    exact ih hm

/-- Canonical buffers that read alike at the twelve indices are equal data. -/
theorem Memory.ext_of_read {m m' : Memory} (h : Memory.wf m = true) (h' : Memory.wf m' = true)
    (hr : ∀ a, a < 12 → Memory.read m a = Memory.read m' a) : m = m' := by
  refine Memory.ext_wf h h' fun a => ?_
  by_cases ha : a < 12
  · exact hr a ha
  · rw [Memory.read_above h (by omega), Memory.read_above h' (by omega)]

/-! ## The packet classes -/

theorem exec_instr_pktRow_matching {r : PktRow} (hr : r.cls ≠ .other) (p : PacketWord) {s : State} (h : s.hyst.toNat ≤ 13) :
    exec (r.instr p) s = .next { s with hyst := s.hyst + 1 } := by
  rw [← runPktRow_eq_exec, runPktRow_eq_next, if_neg hr]
  exact ⟨by simp only [Config.hystTrigger]; omega, rfl⟩

theorem runPktRow_fault (r : PktRow) (p : PacketWord) {s : State} (h : 14 ≤ s.hyst.toNat) :
    runPktRow r p s = .fault (.hystOutOfRange s.hyst) := by
  cases r
  case other => exact if_pos h
  all_goals exact if_pos h

theorem isPacketClass_iff {i : Instr} : Claims.isPacketClass i = true ↔ ∃ r p, i = PktRow.instr r p := by
  constructor
  · intro h
    cases i
    case pktPrimaryA0 p => exact ⟨.primaryA0, p, rfl⟩
    case pktPrimaryA1 p => exact ⟨.primaryA1, p, rfl⟩
    case pktPrimaryA2 p => exact ⟨.primaryA2, p, rfl⟩
    case pktPrimary01Lo01 p => exact ⟨.primary01Lo01, p, rfl⟩
    case pktPrimary01Lo2 p => exact ⟨.primary01Lo2, p, rfl⟩
    case pktPrimary01Hi98 p => exact ⟨.primary01Hi98, p, rfl⟩
    case pktPrimary01HiA0 p => exact ⟨.primary01HiA0, p, rfl⟩
    case pktPrimary01HiC0 p => exact ⟨.primary01HiC0, p, rfl⟩
    case pktSecondaryFlag p => exact ⟨.secondaryFlag, p, rfl⟩
    case pktSecondary01 p => exact ⟨.secondary01, p, rfl⟩
    case pktOther p => exact ⟨.other, p, rfl⟩
    all_goals cases h
  · rintro ⟨r, p, rfl⟩
    cases r <;> rfl

/-- The decrement that stays at 0, in the two forms (rule R93). -/
theorem hyst_decrement (k : BitVec 4) : (if 0 < k.toNat then k - 1 else k) = if k = 0 then 0 else k - 1 := by
  revert k; decide

/-- Below 14 `CLASSIFY` completes: the class that the predicates give the packet moves `hyst`, and the threshold follows (rule R90). -/
theorem classify_of_le {s : State} (h : s.hyst.toNat ≤ 13) :
    classify s = .next (threshold { s with
      hyst := Claims.hystAfter (pktClass s.params.grouping (decide (s.hyst ≠ 0)) (packetWord s.pkt)) s.hyst }) := by
  have hcls : (bufferRow s).cls = pktClass s.params.grouping (decide (s.hyst ≠ 0)) (packetWord s.pkt) := by
    rw [bufferRow, decide_hyst_pos]
    exact Proofs.packetRowsAgreeWithPredicates _ _ _
  rw [classify_eq_next, hcls]
  refine ⟨by simp only [Config.hystTrigger]; omega, congrArg threshold ?_⟩
  cases pktClass s.params.grouping (decide (s.hyst ≠ 0)) (packetWord s.pkt) with
  | primary | secondary => rfl
  | other => rw [if_pos rfl, hyst_decrement, Claims.hystAfter]

theorem classify_fault {s : State} (h : 14 ≤ s.hyst.toNat) : classify s = .fault (.hystOutOfRange s.hyst) := by
  rw [classify, runPktRow_fault _ _ h, andThen_fault]

/-- One class moves `hyst` by at most one, up to 14 (rules R91 to R93). -/
theorem hystAfter_le (c : PktClass) {h : BitVec 4} (hle : h.toNat ≤ 13) : (Claims.hystAfter c h).toNat ≤ 14 := by
  revert h
  cases c <;> decide

/-- `THRESHOLD` as one record: the clamp and the request (rules R94, R95). -/
theorem threshold_eq {s : State} (h : s.hyst.toNat ≤ 14) :
    threshold s = { s with
      hyst := if s.hyst = 14 then 11 else s.hyst
      reqPending := s.reqPending || (decide (s.hyst = 14) && !s.injectionRunning) } := by
  have htrig : hystTriggers s = decide (s.hyst = 14) := by
    rw [Bool.eq_iff_iff, hystTriggers_iff, decide_eq_true_iff, ← BitVec.toNat_inj]
    change 14 ≤ s.hyst.toNat ↔ s.hyst.toNat = 14
    omega
  obtain ⟨hh, hreq⟩ := threshold_hyst_req s
  rw [threshold_frame, hh, hreq, htrig]
  simp only [decide_eq_true_eq]

/-! ## The gap test (rule R81) -/

/-- The gap as the registers compute it is the gap as an integer. -/
theorem elapsed_eq_gapUs (s : State) : (elapsed s : Int) = Claims.gapUs s := by
  simp only [elapsed, wrapSub, Claims.gapUs]
  generalize s.usCount = a
  generalize s.lastTs = b
  have hpos : 0 < 2 ^ s.params.tsw := Nat.two_pow_pos _
  generalize 2 ^ s.params.tsw = m at *
  have hlt : b % m < m := Nat.mod_lt b hpos
  have hdiv : ((m * (b / m) + b % m : Nat) : Int) = (b : Int) := congrArg _ (Nat.div_add_mod b m)
  have hadd : ((a + (m - b % m) : Nat) : Int) = ((a : Int) - b) + m * (1 + ((b / m : Nat) : Int)) := by
    push_cast [hlt.le] at hdiv ⊢
    linarith
  rw [Int.natCast_emod, hadd, Int.add_mul_emod_self_left]

theorem gapExceeded_iff {s : State} : gapExceeded s = true ↔ 180 < Claims.gapUs s := by
  rw [← elapsed_eq_gapUs, gapExceeded, decide_eq_true_iff, Config.resyncGapUs]
  omega

theorem resyncCheck_of_gap {s : State} (h : 180 < Claims.gapUs s) :
    resyncCheck s = { s with lastTs := s.usCount, bitPos := 0, byteAcc := 0, pktPos := 0 } :=
  if_pos (gapExceeded_iff.mpr h)

theorem resyncCheck_of_no_gap {s : State} (h : Claims.gapUs s ≤ 180) : resyncCheck s = { s with lastTs := s.usCount } :=
  if_neg (by rw [gapExceeded_iff]; omega)

/-- The gap test leaves the position or clears it. -/
theorem resyncCheck_pktPos_le (s : State) : (resyncCheck s).pktPos.toNat ≤ s.pktPos.toNat := by
  unfold resyncCheck
  split
  · exact Nat.zero_le _
  · exact le_refl _

/-! ## The sample (rules R80, R82, R83) -/

/-- ORing a sample in at its position (rule R69). -/
theorem or_placeSample (acc : Byte) (d : Bool) (pos : BitVec 3) :
    acc ||| placeSample d pos = if d then acc ||| (1#8 <<< pos.toNat) else acc := by
  cases d
  · simp [placeSample]
  · rfl

theorem or_placeSample_zero (d : Bool) : 0 ||| placeSample d 0 = if d then 1 else 0 := by cases d <;> decide

theorem bitPos_succ_eq_zero_iff (k : BitVec 3) : k + 1 = 0 ↔ k = 7 := by revert k; decide

theorem exec_sqckRise_of_ne {d : Bool} {s : State} (h : (resyncCheck s).bitPos ≠ 7) :
    exec (.sqckRise d) s = .next (shiftBit d (resyncCheck s)) :=
  execSqckRise_eq_next.mpr (.inl ⟨mt (bitPos_succ_eq_zero_iff _).mp h, rfl⟩)

theorem exec_sqckRise_of_full {d : Bool} {s : State} (h : (resyncCheck s).bitPos = 7) :
    exec (.sqckRise d) s = andThen (storeByte (shiftBit d (resyncCheck s))) packetDone :=
  if_pos ((bitPos_succ_eq_zero_iff _).mpr h)

theorem storeByte_of_lt {s : State} (h : s.pktPos.toNat < 12) : storeByte s = .next (stored s) :=
  storeByte_eq_next.mpr ⟨h, rfl⟩

theorem storeByte_fault {s : State} (h : 12 ≤ s.pktPos.toNat) : storeByte s = .fault (.packetIndexOutOfRange s.pktPos.toNat) := by
  have hw : pktWrite s.pktPos.toNat s.byteAcc s = .fault (.packetIndexOutOfRange s.pktPos.toNat) :=
    if_neg (by simp only [Config.pktBytes]; omega)
  rw [storeByte, hw, andThen_fault]

/-- A completed byte that is not the last only moves the position. -/
theorem nextPktPos_of_lt {k : BitVec 4} (h : k.toNat < 11) : nextPktPos k = k + 1 := by
  revert k; decide

/-- The state after the eighth sample of a byte is stored, without a gap. -/
theorem stored_shiftBit {s : State} (d : Bool) (h : Claims.gapUs s ≤ 180) (hb : s.bitPos = 7) :
    stored (shiftBit d (resyncCheck s)) = { s with
      lastTs := s.usCount
      bitPos := 0
      byteAcc := 0
      pktPos := nextPktPos s.pktPos
      pkt := Memory.write s.pkt s.pktPos.toNat (if d then s.byteAcc ||| 0x80 else s.byteAcc) } := by
  rw [resyncCheck_of_no_gap h]
  simp only [stored, shiftBit, hb, or_placeSample]
  rfl

end Sys2Proof.Machine

namespace Sys2Proof.Proofs

open Sys2Proof.Machine

/-- Settles O15: the laws of reading and writing, and extensionality on the twelve indices (rules R40, R45). -/
theorem packetBufferReadAfterWrite : Obligations.PacketBufferReadAfterWrite := by
  intro m k v hm hk
  exact ⟨Memory.read_write_same v hm, fun a ha => Memory.read_write_other v ha, Memory.wf_write v hm hk,
    fun m' hm' hr => Memory.ext_of_read hm' hm hr⟩

/-- Settles O16: the three clears, then the sample at position 0 (rules R81, R82). -/
theorem gapResynchronises : Obligations.GapResynchronises := by
  intro s d h
  have hb : (resyncCheck s).bitPos ≠ 7 := by
    rw [resyncCheck_of_gap h]
    exact (by decide : (0 : BitVec 3) ≠ 7)
  rw [exec_sqckRise_of_ne hb, resyncCheck_of_gap h, shiftBit, or_placeSample_zero]
  rfl

/-- Settles O17: without a gap only `lastTs` and the sample's place move (rule R82). -/
theorem sampleIsOredAtTheBitPosition : Obligations.SampleIsOredAtTheBitPosition := by
  intro s d h hb
  rw [exec_sqckRise_of_ne (by rw [resyncCheck_of_no_gap h]; exact hb), resyncCheck_of_no_gap h, shiftBit, or_placeSample]

/-- Settles O18: below position 11 the stored byte does not complete the packet (rule R83). -/
theorem eighthSampleStoresTheByte : Obligations.EighthSampleStoresTheByte := by
  intro s d h hb hk
  have hne : s.pktPos + 1 ≠ 0 := by
    revert hk; generalize s.pktPos = k; revert k; decide
  rw [exec_sqckRise_of_full (by rw [resyncCheck_of_no_gap h]; exact hb),
    storeByte_of_lt (by rw [resyncCheck_of_no_gap h]; exact hk.trans (by decide)), andThen_next, stored_shiftBit d h hb,
    nextPktPos_of_lt hk]
  exact if_neg hne

/-- The last sample of a packet hands the stored packet to `CLASSIFY` (rule R84). -/
theorem exec_sqckRise_last {s : State} (d : Bool) (h : Claims.gapUs s ≤ 180) (hb : s.bitPos = 7) (hk : s.pktPos = 11) :
    exec (.sqckRise d) s = classify { s with
      lastTs := s.usCount
      bitPos := 0
      byteAcc := 0
      pktPos := 0
      pkt := Memory.write s.pkt 11 (if d then s.byteAcc ||| 0x80 else s.byteAcc) } := by
  rw [exec_sqckRise_of_full (by rw [resyncCheck_of_no_gap h]; exact hb),
    storeByte_of_lt (by rw [resyncCheck_of_no_gap h]; simp [hk]), andThen_next, stored_shiftBit d h hb, hk]
  exact if_pos rfl

/-- Settles O19: the completed packet is classified, and the threshold acts on the moved counter (rules R84, R90 to R95). -/
theorem lastSampleClassifiesThePacket : Obligations.LastSampleClassifiesThePacket := by
  rintro s d m h hgap hb hk hhyst rfl rfl
  rw [exec_sqckRise_last d hgap hb hk]
  exact (classify_of_le (by exact hhyst)).trans (congrArg _ (threshold_eq (hystAfter_le _ hhyst)))

/-- Settles O20: a byte that does not complete only shifts; one that does needs `pktPos` below 12, and a packet `hyst` below 14
(rule R70, U3). -/
theorem sqckRiseStopsOnlyOnUnreachableValues : Obligations.SqckRiseStopsOnlyOnUnreachableValues := by
  refine ⟨fun s d h hb hk => ?index, fun s d h hb hk hhyst => ?hyst, fun s d hk hhyst => ?completes⟩
  case index =>
    have hcheck := resyncCheck_of_no_gap h
    rw [exec_sqckRise_of_full (by rw [hcheck]; exact hb), storeByte_fault (by rw [hcheck]; exact hk), andThen_fault, hcheck]
    rfl
  case hyst =>
    rw [exec_sqckRise_last d h hb hk]
    exact classify_fault hhyst
  case completes =>
    by_cases hb : (resyncCheck s).bitPos = 7
    · have hk' : (shiftBit d (resyncCheck s)).pktPos.toNat < 12 := Nat.lt_succ_of_le ((resyncCheck_pktPos_le s).trans hk)
      rw [exec_sqckRise_of_full hb, storeByte_of_lt hk', andThen_next, packetDone]
      split
      · rw [classify_of_le (by simpa [stored] using hhyst)]
        exact ⟨_, rfl, by simp [stored]⟩
      · exact ⟨_, rfl, by simp [stored]⟩
    · exact ⟨_, exec_sqckRise_of_ne hb, by simp⟩

/-- Settles O23: each of the ten rows is `hyst + 1`, which 13 does not wrap (rules R91, R92, R96). -/
theorem matchingPacketsRaiseHyst : Obligations.MatchingPacketsRaiseHyst := by
  intro s p h
  have hrow : ∀ r : PktRow, r.cls ≠ .other → exec (r.instr p) s = .next { s with hyst := s.hyst + 1 } :=
    fun r hr => exec_instr_pktRow_matching hr p h
  refine ⟨hrow .primaryA0 nofun, hrow .primaryA1 nofun, hrow .primaryA2 nofun, hrow .primary01Lo01 nofun, hrow .primary01Lo2 nofun,
    hrow .primary01Hi98 nofun, hrow .primary01HiA0 nofun, hrow .primary01HiC0 nofun, hrow .secondaryFlag nofun,
    hrow .secondary01 nofun, ?_⟩
  rw [BitVec.toNat_add]
  exact Nat.mod_eq_of_lt (Nat.lt_of_le_of_lt (Nat.succ_le_succ h) (by decide))

/-- Settles O24: the decrement, which stays at 0 (rule R93). -/
theorem otherPacketsLowerHyst : Obligations.OtherPacketsLowerHyst := by
  intro s p h
  have hsub : ∀ k : BitVec 4, (if 0 < k.toNat then k - 1 else k) = BitVec.ofNat 4 (k.toNat - 1) := by decide
  refine hystDown_eq_next.mpr ⟨Nat.lt_succ_of_le h, ?_⟩
  rw [hsub]

/-- Settles O25: every class tests the counter first (U3). -/
theorem packetClassFaultsAboveThirteen : Obligations.PacketClassFaultsAboveThirteen := by
  intro s i hi h
  obtain ⟨r, p, rfl⟩ := isPacketClass_iff.mp hi
  rw [← runPktRow_eq_exec, runPktRow_fault r p h]

end Sys2Proof.Proofs
end

section
/-! SUPPORT. The frame of `SQCK_RISE`, of `GATE_EDGE` and of the tick, and the mode decision; with the statements about them
(rules R80, R100 to R105, R110 to R112, R150). -/

namespace Sys2Proof.Machine

/-! ## `SQCK_RISE` -/

/-- `CLASSIFY` never clears the request slot (rules R29, R95). -/
theorem packetDone_keeps_request {s t : State} (h : packetDone s = .next t) (hp : s.reqPending = true) : t.reqPending = true := by
  unfold packetDone at h
  split at h
  · obtain ⟨-, rfl⟩ := classify_eq_next.mp h
    rw [(threshold_hyst_req _).2, hp, Bool.true_or]
  · cases h
    exact hp

theorem execSqckRise_keeps_request {d : Bool} {s t : State} (h : execSqckRise d s = .next t) (hp : s.reqPending = true) :
    t.reqPending = true := by
  rcases execSqckRise_eq_next.mp h with ⟨-, rfl⟩ | ⟨-, -, hdone⟩
  · simpa using hp
  · exact packetDone_keeps_request hdone (by simpa [stored] using hp)

/-- `SQCK_RISE` stores at most one byte, at the position that the gap test leaves (rule R83). -/
theorem execSqckRise_pkt {d : Bool} {s t : State} (h : execSqckRise d s = .next t) :
    t.pkt = s.pkt ∨ ∃ v : Byte, t.pkt = Memory.write s.pkt (resyncCheck s).pktPos.toNat v := by
  rcases execSqckRise_eq_next.mp h with ⟨-, rfl⟩ | ⟨-, -, hdone⟩
  · exact .inl (by simp)
  · refine .inr ⟨(shiftBit d (resyncCheck s)).byteAcc, ?_⟩
    rw [packetDone_frame hdone]
    simp [stored]

/-! ## `GATE_EDGE` -/

theorem finalizeDue_iff {s : State} : finalizeDue s = true ↔ s.modeDetected = false ∧ 1000000 ≤ s.usCount := by
  rw [finalizeDue, Bool.and_eq_true, Bool.not_eq_true', decide_eq_true_iff, Config.tSettleUs]

/-- The finalisation writes the two mode flags and nothing else (rule R104). -/
theorem finalizeCheck_eq (s : State) :
    finalizeCheck s = { s with
      modeDetected := s.modeDetected || finalizeDue s
      pu22Mode := if finalizeDue s then decide (100 < s.lowEdges) else s.pu22Mode } := by
  unfold finalizeCheck
  cases finalizeDue s with
  | true =>
    rw [Bool.or_true]
    rfl
  | false =>
    rw [Bool.or_false]
    rfl

theorem finalizeAtEdge_of_edge {s : State} (hf : s.params.finalizeOn = .edge) : finalizeAtEdge s = finalizeCheck s := by
  simp only [finalizeAtEdge, hf]

theorem finalizeAtEdge_frame (s : State) :
    finalizeAtEdge s = { s with modeDetected := (finalizeAtEdge s).modeDetected, pu22Mode := (finalizeAtEdge s).pu22Mode } := by
  cases hf : s.params.finalizeOn with
  | tick => rw [finalizeAtEdge_of_tick hf]
  | edge => rw [finalizeAtEdge_of_edge hf, finalizeCheck_eq]

/-- An edge counts, mirrors or does nothing (rules R100 to R103). -/
theorem edgeAction_frame (l : Bool) (s : State) :
    edgeAction l s = { s with highEdges := (edgeAction l s).highEdges, lowEdges := (edgeAction l s).lowEdges,
                              dataOut := (edgeAction l s).dataOut } := by
  unfold edgeAction
  split
  · split <;> rfl
  · unfold count
    split <;> rfl

/-- `GATE_EDGE` writes the counters, `dataOut` and the mode flags only (rule R150). -/
theorem execGateEdge_frame {l : Bool} {s t : State} (h : execGateEdge l s = .next t) :
    t = { s with highEdges := t.highEdges, lowEdges := t.lowEdges, dataOut := t.dataOut, modeDetected := t.modeDetected,
                 pu22Mode := t.pu22Mode } := by
  cases h
  rw [edgeAction_frame, finalizeAtEdge_frame]

/-- Only the passthrough writes `dataOut` at an edge (rule R102). -/
theorem edgeAction_dataOut (l : Bool) (s : State) (hi : s.pu22Inject = false) : (edgeAction l s).dataOut = s.dataOut := by
  unfold edgeAction
  rw [hi]
  split <;> simp

theorem edgeAction_lowEdges_of_final {l : Bool} {s : State} (hm : s.modeDetected = true) :
    (edgeAction l s).lowEdges = s.lowEdges ∧ (edgeAction l s).highEdges = s.highEdges := by
  rw [edgeAction_of_final l hm]
  split <;> simp

/-! ## The tick -/

theorem finalizeAtTick_of_final {s : State} (hm : s.modeDetected = true) : finalizeAtTick s = s := by
  unfold finalizeAtTick
  split
  · exact finalizeCheck_of_final hm
  · rfl

/-- The part of a tick before the controller's step, as one record (rules R104, R111, decision D12). -/
theorem finalizeAtTick_timebase {s : State} {due : Bool}
    (hdue : due = decide (s.params.finalizeOn = .tick ∧ s.modeDetected = false ∧ 1000000 ≤ (s.usCount + 1) % 2 ^ s.params.tsw)) :
    finalizeAtTick (timebase s) = { s with
      usCount := (s.usCount + 1) % 2 ^ s.params.tsw
      modeDetected := s.modeDetected || due
      pu22Mode := if due then decide (100 < s.lowEdges) else s.pu22Mode } := by
  unfold finalizeAtTick
  split
  · rename_i hf
    have hd : finalizeDue (timebase s) = due := by
      rw [hdue, Bool.eq_iff_iff, finalizeDue_iff, decide_eq_true_iff]
      exact ⟨fun h => ⟨hf, h⟩, fun h => h.2⟩
    rw [finalizeCheck_eq, hd]
    rfl
  · rename_i hf
    have hd : due = false := by
      rw [hdue, decide_eq_false_iff_not]
      intro h
      rw [show s.params.finalizeOn = .edge from hf] at h
      cases h.1
    rw [hd, Bool.or_false]
    rfl

theorem exec_usTick (s : State) : exec .usTick s = runFsmRow (fsmRow s.fsm) (finalizeAtTick (timebase s)) := by
  change runFsmRow (fsmRow (finalizeAtTick (timebase s)).fsm) _ = _
  simp

/-- With the mode final a tick is the time base and the controller's step (rules R105, R110). -/
theorem exec_usTick_of_final {s : State} (hm : s.modeDetected = true) :
    exec .usTick s = runFsmRow (fsmRow s.fsm) (timebase s) := by
  rw [exec_usTick, finalizeAtTick_of_final (by exact hm)]

theorem fsmRow_eq_waitReq {c : FsmCode} : fsmRow c = .waitReq ↔ c = 1 := by revert c; decide

/-- A tick writes the time base, the mode flags and the controller's own registers and pins (rules R110, R150). -/
theorem execUsTick_frame {s t : State} (h : exec .usTick s = .next t) :
    t = { s with usCount := t.usCount, modeDetected := t.modeDetected, pu22Mode := t.pu22Mode, reqPending := t.reqPending,
                 injectionRunning := t.injectionRunning, pu22Inject := t.pu22Inject, fsm := t.fsm, round := t.round, sym := t.sym,
                 delayCnt := t.delayCnt, dataDir := t.dataDir, dataOut := t.dataOut, gateDir := t.gateDir, gateOut := t.gateOut,
                 reported := t.reported } ∧
    (t.reqPending = s.reqPending ∨ (s.fsm = 1 ∧ s.reqPending = true ∧ t.reqPending = false ∧ t.fsm = 2)) := by
  rw [exec_usTick, finalizeAtTick_timebase rfl] at h
  obtain ⟨hframe, hreq⟩ := runFsmRow_frame h
  refine ⟨by rw [hframe], hreq.imp id ?_⟩
  rintro ⟨hrow, hpend, hclear, hstart⟩
  exact ⟨fsmRow_eq_waitReq.mp hrow, hpend, hclear, hstart⟩

theorem execUsTick_pkt {s t : State} (h : exec .usTick s = .next t) : t.pkt = s.pkt := by rw [(execUsTick_frame h).1]

/-! ## The mode -/

/-- The operation leaves the mode decision and its counters alone. -/
def SameMode (s t : State) : Prop :=
  t.modeDetected = s.modeDetected ∧ t.pu22Mode = s.pu22Mode ∧ t.highEdges = s.highEdges ∧ t.lowEdges = s.lowEdges

theorem hystUp_sameMode {s t : State} (h : hystUp s = .next t) : SameMode s t := by
  obtain ⟨-, rfl⟩ := hystUp_eq_next.mp h
  exact ⟨rfl, rfl, rfl, rfl⟩

theorem hystDown_sameMode {s t : State} (h : hystDown s = .next t) : SameMode s t := by
  obtain ⟨-, rfl⟩ := hystDown_eq_next.mp h
  exact ⟨rfl, rfl, rfl, rfl⟩

theorem execSqckRise_sameMode {d : Bool} {s t : State} (h : execSqckRise d s = .next t) : SameMode s t := by
  rw [execSqckRise_frame h]
  exact ⟨rfl, rfl, rfl, rfl⟩

theorem runFsmRow_sameMode (r : FsmRow) {s t : State} (h : runFsmRow r s = .next t) : SameMode s t := by
  rw [(runFsmRow_frame h).1]
  exact ⟨rfl, rfl, rfl, rfl⟩

theorem runSymbol_sameMode (b : SymbolCode) {s t : State} (h : runSymbol b s = .next t) : SameMode s t := by
  rw [runSymbol_frame h]
  exact ⟨rfl, rfl, rfl, rfl⟩

theorem startBit_sameMode {k : Nat} {s t : State} (h : startBit k s = .next t) : SameMode s t := by
  rw [(startBit_frame h).1]
  exact ⟨rfl, rfl, rfl, rfl⟩

/-- Only `RESET`, an edge and a tick write the mode or its counters (rules R25, R26, R101, R104). -/
theorem exec_sameMode {i : Instr} {s t : State} (hr : i ≠ .reset) (hg : ∀ l, i ≠ .gateEdge l) (ht : i ≠ .usTick)
    (h : exec i s = .next t) : SameMode s t := by
  cases i
  case reset => exact absurd rfl hr
  case gateEdge l => exact absurd rfl (hg l)
  case usTick => exact absurd rfl ht
  case nop => cases h; exact ⟨rfl, rfl, rfl, rfl⟩
  case sqckRise d => exact execSqckRise_sameMode h
  case pktOther p => exact hystDown_sameMode h
  case waitMode => exact runFsmRow_sameMode .waitMode h
  case waitReq => exact runFsmRow_sameMode .waitReq h
  case start => exact runFsmRow_sameMode .start h
  case sendE => exact runFsmRow_sameMode .sendE h
  case sendA => exact runFsmRow_sameMode .sendA h
  case sendI => exact runFsmRow_sameMode .sendI h
  case endInjection => exact runFsmRow_sameMode .endInjection h
  case fsmReserved7 => exact runFsmRow_sameMode .reserved7 h
  case sym0 => exact runSymbol_sameMode 0 h
  case sym1 => exact runSymbol_sameMode 1 h
  case strScee | strScea | strScei => exact startBit_sameMode h
  -- the ten matching packet classes
  all_goals exact hystUp_sameMode h

/-- What `ModeIsDecidedOnce` says of one operation: a final mode stays as it is, and an open one is decided by the low observations
at or after 1 000 000 µs (rules R104, R105). -/
def DecidesOnce (s t : State) : Prop :=
  (s.modeDetected = true →
    t.modeDetected = true ∧ t.pu22Mode = s.pu22Mode ∧ t.highEdges = s.highEdges ∧ t.lowEdges = s.lowEdges) ∧
  (s.modeDetected = false → t.modeDetected = false → t.pu22Mode = s.pu22Mode) ∧
  (s.modeDetected = false → t.modeDetected = true →
    1000000 ≤ t.usCount ∧ t.pu22Mode = decide (100 < s.lowEdges) ∧ t.lowEdges = s.lowEdges)

theorem SameMode.decidesOnce {s t : State} (h : SameMode s t) : DecidesOnce s t := by
  obtain ⟨hm, hp, hh, hl⟩ := h
  refine ⟨fun hs => ⟨hm.trans hs, hp, hh, hl⟩, fun _ _ => hp, fun hs ht => ?_⟩
  rw [hm, hs] at ht
  cases ht

/-- A finalisation test decides once, and what follows it with the mode unchanged keeps the decision. -/
theorem DecidesOnce.of_finalizeCheck {s t : State} (hm : t.modeDetected = (finalizeCheck s).modeDetected)
    (hp : t.pu22Mode = (finalizeCheck s).pu22Mode) (hu : t.usCount = s.usCount)
    (hc : (finalizeCheck s).modeDetected = true → t.highEdges = s.highEdges ∧ t.lowEdges = s.lowEdges) : DecidesOnce s t := by
  obtain ⟨em, ep⟩ := finalizeCheck_mode s
  rw [em] at hm hc
  rw [ep] at hp
  cases hs : s.modeDetected with
  | true =>
    rw [hs, Bool.true_or] at hm hc
    rw [finalizeDue_of_final hs, if_neg Bool.false_ne_true] at hp
    exact ⟨fun _ => ⟨hm, hp, hc rfl⟩, fun h => absurd (hs.symm.trans h) (by decide), fun h => absurd (hs.symm.trans h) (by decide)⟩
  | false =>
    rw [hs, Bool.false_or] at hm hc
    refine ⟨fun h => absurd (hs.symm.trans h) (by decide), fun _ ht => ?undecided, fun _ ht => ?decided⟩
    case undecided => rw [hp, ← hm, ht, if_neg Bool.false_ne_true]
    case decided =>
      have hdue : finalizeDue s = true := hm.symm.trans ht
      rw [hdue, if_pos rfl] at hp
      exact ⟨hu ▸ (finalizeDue_iff.mp hdue).2, hp, (hc hdue).2⟩

theorem execGateEdge_decidesOnce {l : Bool} {s t : State} (h : execGateEdge l s = .next t) : DecidesOnce s t := by
  cases h
  cases hf : s.params.finalizeOn with
  | tick =>
    rw [finalizeAtEdge_of_tick hf]
    refine ⟨fun hm => ⟨by simpa using hm, by simp, (edgeAction_lowEdges_of_final hm).symm⟩, fun _ _ => by simp, fun hm ht => ?_⟩
    rw [show (edgeAction l s).modeDetected = s.modeDetected by simp, hm] at ht
    cases ht
  | edge =>
    rw [finalizeAtEdge_of_edge hf]
    refine DecidesOnce.of_finalizeCheck (by simp) (by simp) (by simp) fun hm => ?_
    obtain ⟨hl, hh⟩ := edgeAction_lowEdges_of_final (l := l) hm
    exact ⟨by rw [hh]; simp, by rw [hl]; simp⟩

theorem execUsTick_decidesOnce {s t : State} (h : exec .usTick s = .next t) : DecidesOnce s t := by
  rw [exec_usTick] at h
  have hu : t.usCount = (timebase s).usCount := (runFsmRow_usCount _ h).trans (by simp)
  have hsame := runFsmRow_sameMode _ h
  unfold finalizeAtTick at hsame
  split at hsame
  · obtain ⟨hm, hp, hh, hl⟩ := hsame
    have hd : DecidesOnce (timebase s) t :=
      DecidesOnce.of_finalizeCheck hm hp hu fun _ => ⟨by simpa using hh, by simpa using hl⟩
    exact hd
  · exact SameMode.decidesOnce (s := timebase s) hsame

/-! ## Ticks that complete -/

theorem startBit_completes {k : Nat} {s : State} (hk : k < 3) (hs : s.sym.toNat < 44) : ∃ t, startBit k s = .next t := by
  obtain ⟨b, hb⟩ := bitAt_isSome hk hs
  exact ⟨_, startBit_eq hb⟩

theorem region_index_lt (r : Region) : r.index < 3 := by cases r <;> decide

theorem runRegion_completes (r : Region) {s : State} (hs : s.sym.toNat < 44) : ∃ t, runRegion r s = .next t := by
  rw [runRegion_eq_startBit]
  exact startBit_completes (region_index_lt r) hs

theorem afterPause_completes (r : Region) (s : State) : ∃ t, afterPause r s = .next t := by
  have hbegin : ∀ (q : Region) (u : State), ∃ t, beginString q u = .next t := fun q u => runRegion_completes q (show (0 : BitVec 6).toNat < 44 by decide)
  cases r with
  | scee => exact hbegin _ _
  | scea => exact hbegin _ _
  | scei =>
    simp only [afterPause]
    split
    · exact hbegin _ _
    · exact ⟨_, rfl⟩

/-- A `SEND` state completes while `sym` is in its range (rules R23, R115). -/
theorem send_completes (r : Region) {s : State} (hs : s.sym.toNat ≤ 45) : ∃ t, send r s = .next t := by
  unfold send
  split
  · exact ⟨_, rfl⟩
  · split
    · exact afterPause_completes r s
    · split
      · exact runRegion_completes r (by assumption)
      · rename_i h45 hlt
        have h44 : s.sym = 44 := by
          revert hs h45 hlt
          generalize s.sym = k
          revert k
          decide
        rw [if_pos h44]
        exact ⟨_, rfl⟩

theorem runFsmRow_completes (r : FsmRow) {s : State} (hs : s.sym.toNat ≤ 45) : ∃ t, runFsmRow r s = .next t := by
  cases r
  case waitMode =>
    change ∃ t, execWaitMode s = .next t
    unfold execWaitMode
    split <;> exact ⟨_, rfl⟩
  case waitReq =>
    change ∃ t, execWaitReq s = .next t
    unfold execWaitReq
    split <;> exact ⟨_, rfl⟩
  case sendE => exact send_completes .scee hs
  case sendA => exact send_completes .scea hs
  case sendI => exact send_completes .scei hs
  case start | endInjection | reserved7 => exact ⟨_, rfl⟩

theorem exec_waitMode (s : State) : exec .waitMode s = if s.modeDetected then .next { s with fsm := 1 } else .next s := rfl

end Sys2Proof.Machine

namespace Sys2Proof.Proofs

open Sys2Proof.Machine

/-- Settles O21: the frame, with the one byte that is stored (rules R45, R80, R83, R150). -/
theorem sqckRiseFrame : Obligations.SqckRiseFrame := by
  intro s t d h
  refine ⟨execSqckRise_frame h, execSqckRise_keeps_request h, fun hb => ?_, ?_⟩
  · rw [exec_sqckRise_of_ne hb] at h
    cases h
    exact ⟨by simp, by simp, fun a => by simp⟩
  · rintro a rfl b hne
    rcases execSqckRise_pkt h with hpkt | ⟨v, hpkt⟩
    · rw [hpkt]
    · rw [hpkt, Memory.read_write_other v hne]

/-- Settles O31: under `FINALIZE_ON` = `edge` the edge is the finalisation test and then the edge's action in the mode it left
(decision D12). -/
theorem edgeFinalisesWhereTheParameterSaysSo : Obligations.EdgeFinalisesWhereTheParameterSaysSo := by
  intro s l hf hm
  have hearly : s.usCount < 1000000 → exec (.gateEdge l) s = .next (count l s) := by
    intro hlt
    have hdue : ¬ finalizeDue s = true := fun h => absurd (finalizeDue_iff.mp h).2 (Nat.not_le.mpr hlt)
    rw [exec_gateEdge, finalizeAtEdge_of_edge hf, finalizeCheck, if_neg hdue, edgeAction_of_not_final l hm]
  refine ⟨fun hle hi => ?_, fun hlt hl => ?_, fun hlt hl => ?_⟩
  · have hdue : finalizeDue s = true := finalizeDue_iff.mpr ⟨hm, hle⟩
    rw [exec_gateEdge, finalizeAtEdge_of_edge hf, finalizeCheck, if_pos hdue, edgeAction_of_final l (by simp), if_neg (by simp [hi])]
    rfl
  · rw [hearly hlt, hl]
    rfl
  · rw [hearly hlt, hl]
    rfl

/-- Settles O32: the edge's frame; under `FINALIZE_ON` = `tick` it finalises nothing (rules R100, R150). -/
theorem gateEdgeFrame : Obligations.GateEdgeFrame := by
  intro s l
  refine ⟨_, exec_gateEdge l s, execGateEdge_frame (l := l) rfl, fun hf => ?_, fun hi => ?_, fun a => by simp⟩
  · rw [finalizeAtEdge_of_tick hf]
    exact ⟨by simp, by simp⟩
  · rw [edgeAction_dataOut l _ (by simpa using hi)]
    simp

/-- Settles O36: the finalisation does not write `fsm`, so the action is the one of the old code (rule R110). -/
theorem tickRunsTheStateOfItsCode : Obligations.TickRunsTheStateOfItsCode := by
  rintro s u due hdue rfl
  rw [exec_usTick, finalizeAtTick_timebase hdue, runFsmRow_eq_exec, decodeFsm3]

/-- Settles O33: the tick before and at 1 000 000, each followed by `WAIT_MODE` (rules R104, R112). -/
theorem tickFinalisesTheModeAtOneSecond : Obligations.TickFinalisesTheModeAtOneSecond := by
  intro s hf hm hfsm hlt
  have hmod : (s.usCount + 1) % 2 ^ s.params.tsw = s.usCount + 1 := Nat.mod_eq_of_lt hlt
  have hrow : decodeFsm3 s.fsm = .waitMode := by
    rw [hfsm]
    rfl
  have htick := fun due hdue => tickRunsTheStateOfItsCode s _ due hdue rfl
  rw [hmod, hrow] at htick
  refine ⟨fun hbefore => ?before, fun hat => ?decided⟩
  case before =>
    rw [htick false (by simp; omega), exec_waitMode, if_neg (by simp [hm])]
    simp only [Bool.or_false, Bool.false_eq_true, if_false]
  case decided =>
    rw [htick true (by simp [hf, hm]; omega), exec_waitMode, if_pos (by simp)]
    simp only [Bool.or_true, if_true]

/-- Settles O34: every operation but an edge and a tick leaves the mode alone, and those two run the finalisation test at most once
(rules R25, R26, R101, R104, R105). -/
theorem modeIsDecidedOnce : Obligations.ModeIsDecidedOnce := by
  intro i s t hr h
  by_cases ht : i = .usTick
  · subst ht
    exact execUsTick_decidesOnce h
  · by_cases hg : ∃ l, i = .gateEdge l
    · obtain ⟨l, rfl⟩ := hg
      exact execGateEdge_decidesOnce h
    · exact (exec_sameMode hr (not_exists.mp hg) ht h).decidesOnce

/-- Settles O37: the frame of the tick (rules R110, R150). -/
theorem usTickFrame : Obligations.UsTickFrame := by
  intro s t h
  obtain ⟨hframe, hreq⟩ := execUsTick_frame h
  exact ⟨hframe, hreq, fun a => by rw [execUsTick_pkt h]⟩

/-- Settles O38: only a `SEND` state can fault, and not with `sym` in its range (rules R23, R110). -/
theorem tickCompletesInEveryState : Obligations.TickCompletesInEveryState := by
  intro s hs
  obtain ⟨t, ht⟩ := runFsmRow_completes (fsmRow s.fsm) (s := finalizeAtTick (timebase s)) (by simpa using hs)
  rw [← exec_usTick] at ht
  exact ⟨t, ht, exec_usTick_usCount ht⟩

/-- Settles O39: the two cases of `modeDetected` (rule R112). -/
theorem waitModeWaitsForTheMode : Obligations.WaitModeWaitsForTheMode := by
  refine ⟨fun s hm => ?_, fun s hm => ?_⟩
  · rw [exec_waitMode, hm, if_neg Bool.false_ne_true]
  · rw [exec_waitMode, if_pos hm]

/-- Settles O43: the operation is the report alone, and a tick with the mode final adds the time base (rules R70, R142). -/
theorem reservedCodeIsStuckAndFlagged : Obligations.ReservedCodeIsStuckAndFlagged := by
  refine ⟨fun s => rfl, fun s hfsm hm => ?_⟩
  have hrow : fsmRow s.fsm = .reserved7 := by
    rw [hfsm]
    rfl
  rw [exec_usTick_of_final hm, hrow]
  rfl

end Sys2Proof.Proofs
end

section
/-! SUPPORT. The encoding table bit by bit, and the `SEND` states and the strings as an equation per case; with the statements about them
(rules R115, R117, R120, R130, R131). -/

namespace Sys2Proof.Machine

/-! ## The table -/

theorem printedBits_length (r : Region) : (Claims.printedBits r).length = 44 := by cases r <;> rfl

/-- The table read gives the bits that rule R130 prints. -/
theorem bitAt_eq_printedBits (r : Region) (i : Nat) : bitAt r.index i = (Claims.printedBits r)[i]? := by
  by_cases hi : i < 44
  · have hbits : ∀ j < 44, bitAt r.index j = (Claims.printedBits r)[j]? := by cases r <;> decide
    exact hbits i hi
  · rw [bitAt_none (by omega), List.getElem?_eq_none (by rw [printedBits_length]; omega)]

theorem lt_of_printedBits {r : Region} {i : Nat} {b : BitVec 1} (h : (Claims.printedBits r)[i]? = some b) : i < 44 := by
  rw [← printedBits_length r]
  exact (List.getElem?_eq_some_iff.mp h).1

/-- Every string starts with a 1 (rule R130). -/
theorem printedBits_zero (r : Region) : (Claims.printedBits r)[0]? = some 1 := by cases r <;> rfl

/-! ## Symbols -/

/-- A symbol's effect as one record (rules R118, R119). -/
theorem symbolEffect_eq (b : BitVec 1) (s : State) :
    Claims.symbolEffect b s = { s with
      pu22Inject := !decide (b = 0) && (s.pu22Inject || s.pu22Mode)
      dataDir := decide (b = 0) || s.pu22Mode
      dataOut := !decide (b = 0) && s.dataOut } := by
  have hb : b = 0 ∨ b = 1 := by revert b; decide
  rcases hb with rfl | rfl
  · rfl
  · cases hm : s.pu22Mode <;> simp [Claims.symbolEffect, hm]

/-- Starting a bit that the table holds: its symbol, the bit period, the next index (rule R115). -/
theorem runRegion_of_bit {r : Region} {b : BitVec 1} {s : State} (hb : (Claims.printedBits r)[s.sym.toNat]? = some b) :
    runRegion r s = .next { Claims.symbolEffect b s with delayCnt := s.params.tBitUs - 1, sym := s.sym + 1 } := by
  rw [runRegion_eq_startBit, startBit_eq ((bitAt_eq_printedBits r _).trans hb)]
  change Host.Outcome.next (loadBitPeriod (Claims.symbolEffect b s)) = _
  rw [symbolEffect_eq]
  rfl

theorem runRegion_fault (r : Region) {s : State} (hs : 44 ≤ s.sym.toNat) :
    runRegion r s = .fault (.contractViolation r.index s.sym.toNat) := by
  rw [runRegion_eq_startBit, startBit_fault (bitAt_none (by omega))]

/-! ## The `SEND` states -/

theorem send_of_bit (r : Region) {s : State} (hd : s.delayCnt = 0) (hs : s.sym.toNat < 44) : send r s = runRegion r s := by
  have h45 : s.sym ≠ 45 := fun e => by
    rw [e] at hs
    exact absurd hs (by decide)
  rw [send, if_neg (by simp [hd]), if_neg h45, if_pos (show s.sym.toNat < Config.stringBits from hs)]

theorem send_of_bits_over (r : Region) {s : State} (hd : s.delayCnt = 0) (hs : s.sym = 44) : send r s = .next (afterBits r s) :=
  send_eq_next.mpr (.inr (.inr (.inr ⟨hd, hs, rfl⟩)))

theorem send_of_pause_over (r : Region) {s : State} (hd : s.delayCnt = 0) (hs : s.sym = 45) : send r s = afterPause r s := by
  rw [send, if_neg (by simp [hd]), if_pos hs]

theorem send_fault (r : Region) {s : State} (hd : s.delayCnt = 0) (hs : 46 ≤ s.sym.toNat) : send r s = .fault (.symOutOfRange s.sym) := by
  have hne : ∀ k : BitVec 6, k.toNat < 46 → s.sym ≠ k := fun k hk e => by
    rw [e] at hs
    omega
  rw [send, if_neg (by simp [hd]), if_neg (hne 45 (by decide)), if_neg (by simp only [Config.stringBits]; omega),
    if_neg (hne 44 (by decide))]

/-- The next string's bit 0, a 1, starts in the same tick (rules R115, R117). -/
theorem beginString_eq (r : Region) (s : State) :
    beginString r s = .next { Claims.symbolEffect 1 s with fsm := Region.code r, sym := 1, delayCnt := s.params.tBitUs - 1 } := by
  rw [beginString, runRegion_of_bit (b := 1) (printedBits_zero r), symbolEffect_eq, symbolEffect_eq]
  rfl

/-- Only the sixth string asks the parameter `PAUSE_AFTER_LAST` (decision D16). -/
theorem afterBits_of_pause {r : Region} {s : State} (h : isLastString r s = false ∨ s.params.pauseAfterLast = true) :
    afterBits r s = startPause s := by
  unfold afterBits
  rcases h with h | h <;> rw [h] <;> simp

theorem isLastString_scei (s : State) : isLastString .scei s = decide (s.round ≠ 0) := by
  rw [isLastString, decide_not]
  rfl

end Sys2Proof.Machine

namespace Sys2Proof.Proofs

open Sys2Proof.Machine

/-- Settles O52: the 44 bits of each string, and none beyond them (rules R130, R131). -/
theorem romHoldsThePrintedStrings : Obligations.RomHoldsThePrintedStrings := by
  refine ⟨bitAt_eq_printedBits, fun k i => ?_, fun r => by cases r <;> decide, fun r => by cases r <;> decide⟩
  by_cases h : k < 3 ∧ i < 44
  · obtain ⟨b, hb⟩ := bitAt_isSome h.1 h.2
    rw [hb]
    simp only [reduceCtorEq, false_iff]
    omega
  · rw [bitAt_none h]
    simp only [true_iff]
    omega

/-- Settles O51: the row of the string, in range and out of it (rules R115, R131). -/
theorem stringRowsStartTheirNextBit : Obligations.StringRowsStartTheirNextBit := by
  intro s r
  rw [← runRegion_eq_exec]
  exact ⟨fun b hb => runRegion_of_bit hb, fun hs => runRegion_fault r hs⟩

/-- Settles O47: with no delay running and `sym` below 44 a `SEND` state is its string's row (rule R115). -/
theorem sendStartsTheNextBit : Obligations.SendStartsTheNextBit := by
  intro s r b hd hb
  have hsend : send r s = .next { Claims.symbolEffect b s with delayCnt := s.params.tBitUs - 1, sym := s.sym + 1 } := by
    rw [send_of_bit r hd (lt_of_printedBits hb), runRegion_of_bit hb]
  cases r <;> exact hsend

/-- Settles O48: `sym` 44 is neither the end of a pause nor a bit (rule R120, decision D16). -/
theorem sendPausesAfterTheString : Obligations.SendPausesAfterTheString := by
  intro s hd hs
  refine ⟨send_of_bits_over .scee hd hs, send_of_bits_over .scea hd hs, fun h => ?pause, fun hround hlast => ?finish⟩
  case pause =>
    refine (send_of_bits_over .scei hd hs).trans (congrArg _ (afterBits_of_pause ?_))
    rw [isLastString_scei]
    exact h.imp_left (fun hr => by simp [hr])
  case finish =>
    refine (send_of_bits_over .scei hd hs).trans (congrArg _ (if_pos ?_))
    rw [isLastString_scei, hround, hlast]
    decide

/-- Settles O49: what follows the pause of each string, in each round (rules R115, R117). -/
theorem stringsFollowInTheFixedOrder : Obligations.StringsFollowInTheFixedOrder := by
  intro s hd hs
  refine ⟨(send_of_pause_over .scee hd hs).trans (beginString_eq .scea s),
    (send_of_pause_over .scea hd hs).trans (beginString_eq .scei s), fun hround => ?next, fun hround => ?finish⟩
  case next =>
    refine (send_of_pause_over .scei hd hs).trans ((if_pos hround).trans ?_)
    rw [beginString_eq, symbolEffect_eq, symbolEffect_eq]
    rfl
  case finish =>
    exact (send_of_pause_over .scei hd hs).trans (if_neg (by rw [hround]; decide))

/-- Settles O50: `sym` from 46 on is none of the three cases (rule R70, U3). -/
theorem sendFaultsOnUnreachableSymbolCount : Obligations.SendFaultsOnUnreachableSymbolCount := by
  intro s hd hs
  exact ⟨send_fault .scee hd hs, send_fault .scea hd hs, send_fault .scei hd hs⟩

end Sys2Proof.Proofs
end

section
/-! SUPPORT. The invariant of the block under every operation of a cycle, part by part, and the statements about it (rules R38, R141, R151,
R164). -/

namespace Sys2Proof.Machine

/-! ## The ranges -/

theorem rangeInv_resyncCheck {s : State} (h : RangeInv s) : RangeInv (resyncCheck s) := by
  unfold resyncCheck
  split
  · exact { h with lastTs_lt := h.usCount_lt, pktPos_lt := show (0 : BitVec 4).toNat < 12 by decide, byteAcc_lt := Nat.one_pos }
  · exact { h with lastTs_lt := h.usCount_lt }

theorem bitPos_succ_toNat (k : BitVec 3) (hk : k ≠ 7) : (k + 1).toNat = k.toNat + 1 := by revert k; decide

theorem placeSample_lt (d : Bool) (k : BitVec 3) : (placeSample d k).toNat < 2 ^ (k.toNat + 1) := by revert k; cases d <;> decide

/-- ORing a sample in at position `k` of a byte below `2 ^ k` gives a byte below `2 ^ (k + 1)` (rule R38 item 2). -/
theorem byteAcc_shift_lt (acc : Byte) (d : Bool) {k : BitVec 3} (h : acc.toNat < 2 ^ k.toNat) (hk : k ≠ 7) :
    (acc ||| placeSample d k).toNat < 2 ^ (k + 1).toNat := by
  rw [bitPos_succ_toNat k hk, BitVec.toNat_or]
  exact Nat.or_lt_two_pow (h.trans (Nat.pow_lt_pow_succ (by decide))) (placeSample_lt d k)

theorem rangeInv_shiftBit {s : State} (d : Bool) (h : RangeInv s) (hb : s.bitPos ≠ 7) : RangeInv (shiftBit d s) :=
  { h with byteAcc_lt := byteAcc_shift_lt s.byteAcc d h.byteAcc_lt hb }

theorem rangeInv_stored_shiftBit {s : State} (d : Bool) (h : RangeInv s) : RangeInv (stored (shiftBit d s)) where
  params_wf := h.params_wf
  usCount_lt := h.usCount_lt
  lastTs_lt := h.lastTs_lt
  pktPos_lt := by
    have hlt : s.pktPos.toNat < 12 := h.pktPos_lt
    change (nextPktPos s.pktPos).toNat < 12
    rw [nextPktPos_toNat hlt]
    split <;> omega
  pkt_wf := Memory.wf_write _ h.pkt_wf h.pktPos_lt
  byteAcc_lt := Nat.two_pow_pos _
  hyst_lt := h.hyst_lt
  highEdges_lt := h.highEdges_lt
  lowEdges_lt := h.lowEdges_lt
  sym_le := h.sym_le
  delayCnt_le := h.delayCnt_le
  fsm_legal := h.fsm_legal
  nothing_reported := h.nothing_reported

theorem clamp_lt (k : BitVec 4) (hk : k.toNat ≤ 14) : (if k = 14 then 11 else k).toNat < 14 := by revert k; decide

/-- `CLASSIFY` leaves `hyst` below 14 (rules R38, R94). -/
theorem classify_hyst_lt {s t : State} (hs : s.hyst.toNat < 14) (h : classify s = .next t) : t.hyst.toNat < 14 := by
  rw [classify_of_le (Nat.le_of_lt_succ hs), threshold_eq (hystAfter_le _ (Nat.le_of_lt_succ hs))] at h
  cases h
  exact clamp_lt _ (hystAfter_le _ (Nat.le_of_lt_succ hs))

theorem rangeInv_packetDone {s t : State} (h : RangeInv s) (hd : packetDone s = .next t) : RangeInv t := by
  have hhyst : t.hyst.toNat < 14 := by
    unfold packetDone at hd
    split at hd
    · exact classify_hyst_lt h.hyst_lt hd
    · cases hd
      exact h.hyst_lt
  rw [packetDone_frame hd]
  exact { h with hyst_lt := hhyst }

theorem rangeInv_sqckRise {d : Bool} {s t : State} (h : RangeInv s) (hx : execSqckRise d s = .next t) : RangeInv t := by
  rcases execSqckRise_eq_next.mp hx with ⟨hb, rfl⟩ | ⟨-, -, hdone⟩
  · exact rangeInv_shiftBit d (rangeInv_resyncCheck h) (mt (bitPos_succ_eq_zero_iff _).mpr hb)
  · exact rangeInv_packetDone (rangeInv_stored_shiftBit d (rangeInv_resyncCheck h)) hdone

theorem satInc_lt (w a : Nat) : satInc w a < 2 ^ w := by
  have := Nat.two_pow_pos w
  unfold satInc
  omega

theorem rangeInv_edgeAction {s : State} (l : Bool) (h : RangeInv s) : RangeInv (edgeAction l s) := by
  unfold edgeAction count
  split
  · split
    · exact { h with }
    · exact h
  · split
    · exact { h with highEdges_lt := satInc_lt _ _ }
    · exact { h with lowEdges_lt := satInc_lt _ _ }

theorem rangeInv_finalizeCheck {s : State} (h : RangeInv s) : RangeInv (finalizeCheck s) := by
  rw [finalizeCheck_eq]
  exact { h with }

theorem rangeInv_timebase {s : State} (h : RangeInv s) : RangeInv (timebase s) :=
  { h with usCount_lt := Nat.mod_lt _ (Nat.two_pow_pos _) }

theorem rangeInv_finalizeAtTick {s : State} (h : RangeInv s) : RangeInv (finalizeAtTick s) := by
  unfold finalizeAtTick
  split
  · exact rangeInv_finalizeCheck h
  · exact h

/-- A controller step keeps the ranges where it keeps those of the registers it counts with. -/
theorem rangeInv_runFsmRow {r : FsmRow} {s t : State} (h : RangeInv s) (hx : runFsmRow r s = .next t) (hsym : t.sym.toNat ≤ 45)
    (hdelay : t.delayCnt ≤ max s.params.tBitUs s.params.tStringUs - 1) (hfsm : t.fsm ≠ 7) (hrep : t.reported = none) : RangeInv t := by
  rw [(runFsmRow_frame hx).1]
  exact { h with sym_le := hsym, delayCnt_le := hdelay, fsm_legal := hfsm, nothing_reported := hrep }

/-! ## The pins and the injection -/

theorem sendRegion_eq_some_iff {s : State} {r : Region} : sendRegion s = some r ↔ s.fsm = Region.code r := by
  unfold sendRegion
  generalize s.fsm = c
  revert c
  cases r <;> decide

/-- While no injection runs, both lines are released, both levels are 0 and the passthrough is off. -/
theorem injectInv_idle_pins {s : State} (h : InjectInv s) (hr : s.injectionRunning = false) :
    s.dataDir = false ∧ s.dataOut = false ∧ s.gateDir = false ∧ s.gateOut = false ∧ s.pu22Inject = false := by
  obtain ⟨hdir, hinj⟩ := h.idle_released hr
  refine ⟨hdir, ?_, by rw [h.gateDir_eq, hr, Bool.false_and], h.gateOut_low, hinj⟩
  rw [Bool.eq_false_iff]
  intro hout
  rw [h.dataOut_mirrors hout] at hinj
  cases hinj

/-- Outside `SEND` and `END` the invariant asks for idle pins and nothing else. -/
theorem injectInv_of_idle {t : State} (hf : t.fsm = 0 ∨ t.fsm = 1 ∨ t.fsm = 2) (hr : t.injectionRunning = false)
    (hpins : t.dataDir = false ∧ t.dataOut = false ∧ t.gateDir = false ∧ t.gateOut = false ∧ t.pu22Inject = false) : InjectInv t := by
  obtain ⟨hdir, hout, hgdir, hgout, hinj⟩ := hpins
  have hne : ∀ c : BitVec 3, c ≠ 0 ∧ c ≠ 1 ∧ c ≠ 2 → t.fsm ≠ c := by
    rintro c ⟨h0, h1, h2⟩ rfl
    rcases hf with h | h | h
    · exact h0 h
    · exact h1 h
    · exact h2 h
  have hsend : ∀ r : Region, sendRegion t ≠ some r := fun r e =>
    hne (Region.code r) (by cases r <;> decide) (sendRegion_eq_some_iff.mp e)
  refine ⟨?_, by rw [hgdir, hr, Bool.false_and], hgout, by simp [hout], fun _ => ⟨hdir, hinj⟩, fun r e => absurd e (hsend r),
    fun r e => absurd e (hsend r), fun h => absurd h (hne 6 (by decide))⟩
  have hsending : ¬ (t.fsm = 3 ∨ t.fsm = 4 ∨ t.fsm = 5 ∨ t.fsm = 6) := by
    rintro (e | e | e | e) <;> exact hne _ (by decide) e
  exact ⟨fun e => absurd (hr.symm.trans e) Bool.false_ne_true, fun e => absurd e hsending⟩

/-- The passthrough flag and the direction of the output line are those that the last symbol of string `r` left (rules R118, R119). -/
structure SymbolPins (r : Region) (s : State) : Prop where
  inject_eq : s.pu22Inject = (s.pu22Mode && lastSymbolIsOne r s.sym.toNat)
  dataDir_eq : s.dataDir = (s.pu22Mode || !lastSymbolIsOne r s.sym.toNat)

/-- What the invariant says of the pins while the controller is in the `SEND` state of a string. -/
structure SendInv (r : Region) (s : State) : Prop extends SymbolPins r s where
  fsm_eq : s.fsm = Region.code r
  running : s.injectionRunning = true
  gateDir_eq : s.gateDir = !s.pu22Mode
  gateOut_low : s.gateOut = false
  dataOut_mirrors : s.dataOut = true → s.pu22Inject = true

theorem injectInv_of_sendInv {r : Region} {s : State} (h : SendInv r s) : InjectInv s := by
  have hcode : s.fsm = 3 ∨ s.fsm = 4 ∨ s.fsm = 5 := by
    rw [h.fsm_eq]
    cases r <;> decide
  have hne : s.fsm ≠ 6 := by
    rw [h.fsm_eq]
    cases r <;> decide
  have hsend : ∀ q, sendRegion s = some q → r = q := by
    intro q e
    rw [sendRegion_eq_some_iff, h.fsm_eq] at e
    revert e
    cases r <;> cases q <;> decide
  refine ⟨⟨fun _ => hcode.imp_right (.imp_right .inl), fun _ => h.running⟩, by rw [h.gateDir_eq, h.running, Bool.true_and],
    h.gateOut_low, h.dataOut_mirrors, fun e => ?_, fun q e => hsend q e ▸ h.inject_eq, fun q e => hsend q e ▸ h.dataDir_eq,
    fun e => absurd e hne⟩
  rw [h.running] at e
  cases e

theorem sendInv_of_injectInv {r : Region} {s : State} (h : InjectInv s) (hf : s.fsm = Region.code r) : SendInv r s := by
  have hsend := sendRegion_eq_some_iff.mpr hf
  have hrun : s.injectionRunning = true := by
    rw [h.running_iff, hf]
    cases r <;> decide
  exact ⟨⟨h.sending_inject r hsend, h.sending_dataDir r hsend⟩, hf, hrun, by rw [h.gateDir_eq, hrun, Bool.true_and], h.gateOut_low,
    h.dataOut_mirrors⟩

/-- At `END` the output line is driven without passthrough (rule R38 item 8). -/
theorem injectInv_of_end {s : State} (hf : s.fsm = 6) (hrun : s.injectionRunning = true) (hg : s.gateDir = !s.pu22Mode)
    (hgo : s.gateOut = false) (hmir : s.dataOut = true → s.pu22Inject = true) (hdir : s.dataDir = true)
    (hinj : s.pu22Inject = false) : InjectInv s := by
  have hsend : ∀ r : Region, sendRegion s ≠ some r := fun r e => by
    rw [sendRegion_eq_some_iff, hf] at e
    revert e
    cases r <;> decide
  refine ⟨⟨fun _ => .inr (.inr (.inr hf)), fun _ => hrun⟩, by rw [hg, hrun, Bool.true_and], hgo, hmir, fun e => ?_,
    fun r e => absurd e (hsend r), fun r e => absurd e (hsend r), fun _ => ⟨hdir, hinj⟩⟩
  rw [hrun] at e
  cases e

theorem lastSymbolIsOne_zero (r : Region) : lastSymbolIsOne r 0 = false := rfl

/-- After bit `i` was started the last symbol is that bit (rules R23, R115). -/
theorem lastSymbolIsOne_succ {r : Region} {i : Nat} {b : BitVec 1} (hb : (Claims.printedBits r)[i]? = some b) :
    lastSymbolIsOne r (i + 1) = !decide (b = 0) := by
  have hone : ∀ c : BitVec 1, (some c == some (1 : BitVec 1)) = !decide (c = 0) := by decide
  rw [lastSymbolIsOne, Nat.add_sub_cancel, bitAt_eq_printedBits, hb, hone, decide_eq_true (Nat.le_add_left 1 i), Bool.true_and]

/-- Bit 43 of every string is a 0, and after it comes the pause (rules R120, R130). -/
theorem lastSymbolIsOne_pause (r : Region) : lastSymbolIsOne r 44 = false ∧ lastSymbolIsOne r 45 = false := by
  cases r <;> decide

/-- A symbol of string `q` leaves the pins as its bit says, whatever string was sent before it. -/
theorem symbolPins_of_bit {r q : Region} {s : State} {b : BitVec 1} {i : Nat} {rd : BitVec 1} {j : BitVec 6} {d : Nat}
    (h : SymbolPins r s) (hb : (Claims.printedBits q)[i]? = some b) (hj : j.toNat = i + 1) :
    SymbolPins q { Claims.symbolEffect b s with fsm := Region.code q, round := rd, sym := j, delayCnt := d } := by
  have hinj : (s.pu22Inject || s.pu22Mode) = s.pu22Mode := by
    rw [h.inject_eq]
    cases s.pu22Mode <;> simp
  rw [symbolEffect_eq]
  constructor
  · change (!decide (b = 0) && (s.pu22Inject || s.pu22Mode)) = (s.pu22Mode && lastSymbolIsOne q j.toNat)
    rw [hinj, hj, lastSymbolIsOne_succ hb, Bool.and_comm]
  · change (decide (b = 0) || s.pu22Mode) = (s.pu22Mode || !lastSymbolIsOne q j.toNat)
    rw [hj, lastSymbolIsOne_succ hb, Bool.not_not, Bool.or_comm]

/-- Starting the pause leaves the pins of bit 43, a 0 (rule R120). -/
theorem symbolPins_startPause {r : Region} {s : State} (h : SymbolPins r s) (hs : s.sym = 44) : SymbolPins r (startPause s) := by
  obtain ⟨h44, h45⟩ := lastSymbolIsOne_pause r
  obtain ⟨hinj, hdir⟩ := h
  rw [show s.sym.toNat = 44 by rw [hs]; rfl, h44, ← h45] at hinj hdir
  exact ⟨hinj, hdir⟩

/-- The state in which a bit of string `q` has just been started, from one in which some string is being sent. -/
theorem sendInv_of_bit {r q : Region} {s : State} {b : BitVec 1} {i : Nat} {rd : BitVec 1} {j : BitVec 6} {d : Nat}
    (h : SendInv r s) (hb : (Claims.printedBits q)[i]? = some b) (hj : j.toNat = i + 1) :
    SendInv q { Claims.symbolEffect b s with fsm := Region.code q, round := rd, sym := j, delayCnt := d } := by
  have hpins := symbolPins_of_bit (rd := rd) (d := d) h.toSymbolPins hb hj
  rw [symbolEffect_eq] at hpins ⊢
  refine ⟨hpins, rfl, h.running, h.gateDir_eq, h.gateOut_low, fun hout => ?_⟩
  simp only [Bool.and_eq_true] at hout ⊢
  exact ⟨hout.1, by rw [h.dataOut_mirrors hout.2, Bool.true_or]⟩

/-! ## The outcomes of a `SEND` state -/

/-- With `sym` in its range a `SEND` state counts down, starts a bit of its own string or of the next, starts the pause, or ends the
injection (rules R115 to R117, R120). -/
theorem send_outcome {r : Region} {s t : State} (hf : s.fsm = Region.code r) (h : send r s = .next t) :
    (s.delayCnt ≠ 0 ∧ t = { s with delayCnt := s.delayCnt - 1 }) ∨
    (∃ (q : Region) (rd b : BitVec 1) (i : Nat) (j : BitVec 6), (Claims.printedBits q)[i]? = some b ∧ j.toNat = i + 1 ∧
      t = { Claims.symbolEffect b s with fsm := Region.code q, round := rd, sym := j, delayCnt := s.params.tBitUs - 1 }) ∨
    (s.sym = 44 ∧ t = startPause s) ∨ ((s.sym = 44 ∨ s.sym = 45) ∧ t = finishInjection s) := by
  have hnext : ∀ (q : Region) (rd : BitVec 1), beginString q { s with round := rd } = .next t →
      ∃ (q : Region) (rd b : BitVec 1) (i : Nat) (j : BitVec 6), (Claims.printedBits q)[i]? = some b ∧ j.toNat = i + 1 ∧
        t = { Claims.symbolEffect b s with fsm := Region.code q, round := rd, sym := j, delayCnt := s.params.tBitUs - 1 } := by
    intro q rd hq
    rw [beginString_eq, symbolEffect_eq] at hq
    cases hq
    exact ⟨q, rd, 1, 0, 1, printedBits_zero q, rfl, by rw [symbolEffect_eq]⟩
  rcases send_eq_next.mp h with hdelay | ⟨-, h45, hpause⟩ | ⟨-, hlt, hbit⟩ | ⟨-, h44, rfl⟩
  · exact .inl hdelay
  · cases r with
    | scee => exact .inr (.inl (hnext .scea s.round hpause))
    | scea => exact .inr (.inl (hnext .scei s.round hpause))
    | scei =>
      simp only [afterPause] at hpause
      split at hpause
      · exact .inr (.inl (hnext .scee 1 hpause))
      · cases hpause
        exact .inr (.inr (.inr ⟨.inr h45, rfl⟩))
  · obtain ⟨b, hb⟩ := bitAt_isSome (region_index_lt r) hlt
    rw [bitAt_eq_printedBits] at hb
    rw [runRegion_of_bit hb] at hbit
    cases hbit
    refine .inr (.inl ⟨r, s.round, b, s.sym.toNat, s.sym + 1, hb, ?_, ?_⟩)
    · rw [BitVec.toNat_add]
      exact Nat.mod_eq_of_lt (by simp; omega)
    · rw [symbolEffect_eq, ← hf]
  · unfold afterBits
    split
    · exact .inr (.inr (.inr ⟨.inl h44, rfl⟩))
    · exact .inr (.inr (.inl ⟨h44, rfl⟩))

end Sys2Proof.Machine
end

section
/-! SUPPORT. The invariant under the controller's step, the tick, the edge, the sample and `RESET`, and then under a whole cycle; with the
statements about it (rules R38, R141, R151, R164, R176). -/

namespace Sys2Proof.Machine

/-! ## The controller's step -/

/-- What holds between the finalisation test of a tick and the controller's step: the invariant, but for a controller that may still be in
`WAIT_MODE` with the mode just decided (rule R110). -/
structure BeforeStep (u : State) : Prop where
  ranges : RangeInv u
  inject : InjectInv u
  undetected_waits : u.modeDetected = false → u.fsm = 0
  undetected_older : u.modeDetected = false → u.pu22Mode = false

theorem fsmCode_fsmRow (c : FsmCode) : fsmCode (fsmRow c) = c := by revert c; decide

theorem fsm_of_row {s : State} {r : FsmRow} (h : fsmRow s.fsm = r) : s.fsm = fsmCode r := h ▸ (fsmCode_fsmRow s.fsm).symm

theorem injectInv_not_running {s : State} (h : InjectInv s) (hf : s.fsm = 0 ∨ s.fsm = 1 ∨ s.fsm = 2) : s.injectionRunning = false := by
  rw [Bool.eq_false_iff]
  intro hr
  have hrun := h.running_iff.mp hr
  revert hf hrun
  generalize s.fsm = c
  revert c
  decide

theorem modeInv_of_final {t : State} (hm : t.modeDetected = true) (hf : t.fsm ≠ 0) : ModeInv t := by
  have hfinal : ∀ {P : Prop}, t.modeDetected = false → P := fun e => absurd (hm.symm.trans e) (by decide)
  exact ⟨hfinal, fun _ e => absurd e hf, hfinal⟩

/-- Outside `WAIT_MODE` the mode is final. -/
theorem BeforeStep.final {u : State} (h : BeforeStep u) (hf : u.fsm ≠ 0) : u.modeDetected = true := by
  rw [← Bool.not_eq_false]
  exact fun e => hf (h.undetected_waits e)

theorem BeforeStep.idle {u : State} (h : BeforeStep u) (hf : u.fsm = 0 ∨ u.fsm = 1 ∨ u.fsm = 2) :
    u.injectionRunning = false ∧
    (u.dataDir = false ∧ u.dataOut = false ∧ u.gateDir = false ∧ u.gateOut = false ∧ u.pu22Inject = false) :=
  have hrun := injectInv_not_running h.inject hf
  ⟨hrun, injectInv_idle_pins h.inject hrun⟩

theorem blockInv_waitMode {u t : State} (h : BeforeStep u) (hf : u.fsm = 0) (hx : execWaitMode u = .next t) : BlockInv t := by
  obtain ⟨hrun, hpins⟩ := h.idle (.inl hf)
  unfold execWaitMode at hx
  split at hx
  · rename_i hm
    cases hx
    exact ⟨{ h.ranges with fsm_legal := show (1 : BitVec 3) ≠ 7 by decide }, modeInv_of_final hm (show (1 : BitVec 3) ≠ 0 by decide),
      injectInv_of_idle (.inr (.inl rfl)) hrun hpins⟩
  · rename_i hm
    cases hx
    exact ⟨h.ranges, ⟨fun _ => hf, fun _ _ => by simpa using hm, h.undetected_older⟩, h.inject⟩

theorem blockInv_waitReq {u t : State} (h : BeforeStep u) (hf : u.fsm = 1) (hx : execWaitReq u = .next t) : BlockInv t := by
  have hm : u.modeDetected = true := h.final (by rw [hf]; decide)
  obtain ⟨hrun, hpins⟩ := h.idle (.inr (.inl hf))
  unfold execWaitReq at hx
  split at hx
  · cases hx
    exact ⟨{ h.ranges with fsm_legal := show (2 : BitVec 3) ≠ 7 by decide }, modeInv_of_final hm (show (2 : BitVec 3) ≠ 0 by decide),
      injectInv_of_idle (.inr (.inr rfl)) hrun hpins⟩
  · cases hx
    exact ⟨h.ranges, modeInv_of_final hm (by rw [hf]; decide), h.inject⟩

theorem blockInv_start {u t : State} (h : BeforeStep u) (hf : u.fsm = 2) (hx : execStart u = .next t) : BlockInv t := by
  have hm : u.modeDetected = true := h.final (by rw [hf]; decide)
  obtain ⟨-, -, -, hgdir, hgout, hinj⟩ := h.idle (.inr (.inr hf))
  cases hx
  refine ⟨rangeInv_runFsmRow (r := .start) h.ranges rfl (show (0 : BitVec 6).toNat ≤ 45 by decide) (Nat.zero_le _) (show (3 : BitVec 3) ≠ 7 by decide) ?_,
    modeInv_of_final (by simpa using hm) (show (3 : BitVec 3) ≠ 0 by decide), injectInv_of_sendInv (r := .scee) ?_⟩
  · simpa using h.ranges.nothing_reported
  · refine ⟨⟨?_, ?_⟩, rfl, rfl, ?_, ?_, fun e => ?_⟩
    · simpa [lastSymbolIsOne_zero] using hinj
    · simp [lastSymbolIsOne_zero]
    · cases hp : u.pu22Mode <;> simp [hp, hgdir]
    · cases hp : u.pu22Mode <;> simp [hp, hgout]
    · simp at e

theorem blockInv_endInjection {u t : State} (h : BeforeStep u) (hf : u.fsm = 6) (hx : execEndInjection u = .next t) : BlockInv t := by
  have hm : u.modeDetected = true := h.final (by rw [hf]; decide)
  have hrun : u.injectionRunning = true := h.inject.running_iff.mpr (.inr (.inr (.inr hf)))
  obtain ⟨-, hinj⟩ := h.inject.ending_low hf
  have hout : u.dataOut = false := by
    rw [Bool.eq_false_iff]
    intro e
    rw [h.inject.dataOut_mirrors e] at hinj
    cases hinj
  have hgdir := h.inject.gateDir_eq
  rw [hrun] at hgdir
  cases hx
  refine ⟨rangeInv_runFsmRow (r := .endInjection) h.ranges rfl ?_ ?_ (show (1 : BitVec 3) ≠ 7 by decide) ?_,
    modeInv_of_final (by simpa using hm) (show (1 : BitVec 3) ≠ 0 by decide), injectInv_of_idle (.inr (.inl rfl)) rfl ?_⟩
  · simpa using h.ranges.sym_le
  · simpa using h.ranges.delayCnt_le
  · simpa using h.ranges.nothing_reported
  · refine ⟨by simp, by simpa using hout, ?_, by simpa using h.inject.gateOut_low, by simpa using hinj⟩
    cases hp : u.pu22Mode <;> simp [hp, hgdir]

/-- At the end of a string's bits and of its pause the line is driven without passthrough (rule R120). -/
theorem SendInv.low {r : Region} {u : State} (h : SendInv r u) (hs : u.sym = 44 ∨ u.sym = 45) :
    u.dataDir = true ∧ u.pu22Inject = false := by
  have hlast : lastSymbolIsOne r u.sym.toNat = false := by
    rcases hs with hs | hs <;> rw [hs]
    · exact (lastSymbolIsOne_pause r).1
    · exact (lastSymbolIsOne_pause r).2
  exact ⟨by rw [h.dataDir_eq, hlast, Bool.not_false, Bool.or_true], by rw [h.inject_eq, hlast, Bool.and_false]⟩

theorem code_ne (r : Region) : Region.code r ≠ 7 ∧ Region.code r ≠ 0 := by cases r <;> decide

/-- A `SEND` state (rules R115 to R120), by its outcomes. -/
theorem blockInv_send {u t : State} {r : Region} (h : BeforeStep u) (hf : u.fsm = Region.code r) (hx : send r u = .next t) :
    BlockInv t := by
  have hm : u.modeDetected = true := h.final (by rw [hf]; exact (code_ne r).2)
  have hs : SendInv r u := sendInv_of_injectInv h.inject hf
  rcases send_outcome hf hx with ⟨-, rfl⟩ | ⟨q, rd, b, i, j, hb, hj, rfl⟩ | ⟨h44, rfl⟩ | ⟨hover, rfl⟩
  case inl =>
    exact ⟨{ h.ranges with delayCnt_le := (Nat.sub_le _ _).trans h.ranges.delayCnt_le },
      modeInv_of_final hm (by simpa [hf] using (code_ne r).2), { h.inject with }⟩
  case inr.inl =>
    have hlt := lt_of_printedBits hb
    refine ⟨?_, modeInv_of_final (by simpa [symbolEffect_eq] using hm) (code_ne q).2, injectInv_of_sendInv (sendInv_of_bit hs hb hj)⟩
    rw [symbolEffect_eq]
    exact { h.ranges with
      sym_le := hj ▸ Nat.succ_le_of_lt (hlt.trans (by decide))
      delayCnt_le := Nat.sub_le_sub_right (le_max_left _ _) 1
      fsm_legal := (code_ne q).1 }
  case inr.inr.inl =>
    refine ⟨{ h.ranges with
        sym_le := show (45 : BitVec 6).toNat ≤ 45 by decide
        delayCnt_le := Nat.sub_le_sub_right (le_max_right _ _) 1 },
      modeInv_of_final hm (by simpa [hf] using (code_ne r).2), injectInv_of_sendInv (r := r) ?_⟩
    exact { hs with
      inject_eq := (symbolPins_startPause hs.toSymbolPins h44).inject_eq
      dataDir_eq := (symbolPins_startPause hs.toSymbolPins h44).dataDir_eq }
  case inr.inr.inr =>
    obtain ⟨hdir, hinj⟩ := hs.low hover
    exact ⟨{ h.ranges with sym_le := Nat.zero_le _, fsm_legal := show (6 : BitVec 3) ≠ 7 by decide },
      modeInv_of_final hm (show (6 : BitVec 3) ≠ 0 by decide),
      injectInv_of_end rfl hs.running hs.gateDir_eq hs.gateOut_low hs.dataOut_mirrors hdir hinj⟩

theorem blockInv_runFsmRow {u t : State} (h : BeforeStep u) (hx : runFsmRow (fsmRow u.fsm) u = .next t) : BlockInv t := by
  cases hrow : fsmRow u.fsm <;> rw [hrow] at hx <;> have hf := fsm_of_row hrow
  case waitMode => exact blockInv_waitMode h hf hx
  case waitReq => exact blockInv_waitReq h hf hx
  case start => exact blockInv_start h hf hx
  case sendE => exact blockInv_send (r := .scee) h hf hx
  case sendA => exact blockInv_send (r := .scea) h hf hx
  case sendI => exact blockInv_send (r := .scei) h hf hx
  case endInjection => exact blockInv_endInjection h hf hx
  case reserved7 => exact absurd hf h.ranges.fsm_legal

/-! ## The finalisation -/

/-- The finalisation test writes the mode flags only while the controller is in `WAIT_MODE`, where the invariant asks nothing of the variant
(rules R38, R104). -/
theorem injectInv_finalizeCheck {s : State} (h : InjectInv s) (hw : s.modeDetected = false → s.fsm = 0) : InjectInv (finalizeCheck s) := by
  unfold finalizeCheck
  split
  · rename_i hdue
    have hf := hw (finalizeDue_iff.mp hdue).1
    have hrun := injectInv_not_running h (.inl hf)
    have hpins := injectInv_idle_pins h hrun
    exact injectInv_of_idle (.inl hf) hrun hpins
  · exact h

theorem finalizeCheck_undetected {s : State} (hm : (finalizeCheck s).modeDetected = false) :
    s.modeDetected = false ∧ (finalizeCheck s).pu22Mode = s.pu22Mode := by
  obtain ⟨em, ep⟩ := finalizeCheck_mode s
  rw [em, Bool.or_eq_false_iff] at hm
  exact ⟨hm.1, by rw [ep, hm.2, if_neg Bool.false_ne_true]⟩

/-! ## The operations of a cycle -/

theorem BlockInv.beforeStep {s : State} (h : BlockInv s) : BeforeStep (finalizeAtTick (timebase s)) := by
  have hrange : RangeInv (timebase s) := rangeInv_timebase h.ranges
  have hinject : InjectInv (timebase s) := { h.inject with }
  have hmode := h.mode
  refine ⟨rangeInv_finalizeAtTick hrange, ?_, ?_, ?_⟩ <;> unfold finalizeAtTick <;> split
  · exact injectInv_finalizeCheck hinject hmode.undetected_waits
  · exact hinject
  · intro hm
    simpa using hmode.undetected_waits (finalizeCheck_undetected hm).1
  · exact hmode.undetected_waits
  · intro hm
    obtain ⟨hm', hp⟩ := finalizeCheck_undetected hm
    exact hp.trans (hmode.undetected_older hm')
  · exact hmode.undetected_older

theorem BlockInv.usTick {s : State} (h : BlockInv s) : ∃ t, exec .usTick s = .next t ∧ BlockInv t := by
  obtain ⟨t, ht, -⟩ := Proofs.tickCompletesInEveryState s h.ranges.sym_le
  refine ⟨t, ht, blockInv_runFsmRow h.beforeStep ?_⟩
  rw [exec_usTick] at ht
  simpa using ht

theorem BlockInv.sqckRise {s : State} (d : Bool) (h : BlockInv s) : ∃ t, exec (.sqckRise d) s = .next t ∧ BlockInv t := by
  obtain ⟨t, ht, -⟩ := Proofs.sqckRiseStopsOnlyOnUnreachableValues.2.2 s d (Nat.le_of_lt_succ h.ranges.pktPos_lt)
    (Nat.le_of_lt_succ h.ranges.hyst_lt)
  refine ⟨t, ht, rangeInv_sqckRise h.ranges ht, ?_, ?_⟩ <;> rw [execSqckRise_frame ht]
  · exact { h.mode with }
  · exact { h.inject with }

/-- Where the parameter lets an edge finalise the mode, the finalisation keeps the invariant (decision D12). -/
theorem BlockInv.finalizeAtEdge {s : State} (h : BlockInv s) : BlockInv (finalizeAtEdge s) := by
  have hmode := h.mode
  cases hf : s.params.finalizeOn with
  | tick => rwa [finalizeAtEdge_of_tick hf]
  | edge =>
    rw [finalizeAtEdge_of_edge hf]
    refine ⟨rangeInv_finalizeCheck h.ranges, ⟨fun hm => ?_, fun htick => ?_, fun hm => ?_⟩,
      injectInv_finalizeCheck h.inject hmode.undetected_waits⟩
    · simpa using hmode.undetected_waits (finalizeCheck_undetected hm).1
    · rw [show (finalizeCheck s).params = s.params by simp, hf] at htick
      cases htick
    · obtain ⟨hm', hp⟩ := finalizeCheck_undetected hm
      exact hp.trans (hmode.undetected_older hm')

theorem BlockInv.edgeAction {s : State} (l : Bool) (h : BlockInv s) : BlockInv (edgeAction l s) := by
  refine ⟨rangeInv_edgeAction l h.ranges, ?_, ?_⟩ <;> unfold Machine.edgeAction
  · split
    · split
      · exact { h.mode with }
      · exact h.mode
    · unfold count
      split <;> exact { h.mode with }
  · split
    · split
      · rename_i hinj
        exact { h.inject with dataOut_mirrors := fun _ => hinj }
      · exact h.inject
    · unfold count
      split <;> exact { h.inject with }

/-- The reset values satisfy the invariant under every supported parameter record (rules R37, R38). -/
theorem blockInv_reset {s : State} (hwf : s.params.wf = true) :
    BlockInv { State.reset with params := s.params, stimulus := s.stimulus, freeIdx := s.freeIdx } where
  ranges := by
    constructor
    case params_wf => exact hwf
    case fsm_legal => exact show (0 : BitVec 3) ≠ 7 by decide
    case nothing_reported => rfl
    case pkt_wf => rfl
    case pktPos_lt | hyst_lt => exact Nat.succ_pos _
    case sym_le | delayCnt_le => exact Nat.zero_le _
    all_goals exact Nat.two_pow_pos _
  mode := ⟨fun _ => rfl, fun _ _ => rfl, fun _ => rfl⟩
  inject := injectInv_of_idle (.inl rfl) rfl ⟨rfl, rfl, rfl, rfl, rfl⟩

/-- Every operation a cycle can perform completes and keeps the invariant. -/
theorem BlockInv.exec {s : State} {i : Instr} (h : BlockInv s) (hi : i = .reset ∨ Claims.isEvent i = true) :
    ∃ t, exec i s = .next t ∧ BlockInv t := by
  rcases hi with rfl | hi
  · exact ⟨_, exec_reset s, blockInv_reset h.ranges.params_wf⟩
  · cases i
    case nop => exact ⟨s, rfl, h⟩
    case sqckRise d => exact h.sqckRise d
    case gateEdge l => exact ⟨_, rfl, h.finalizeAtEdge.edgeAction l⟩
    case usTick => exact h.usTick
    all_goals cases hi

theorem BlockInv.runOps {is : List Instr} {s : State} (h : BlockInv s) (his : ∀ i ∈ is, i = .reset ∨ Claims.isEvent i = true) :
    ∃ t, runOps is s = .next t ∧ BlockInv t := by
  induction is generalizing s with
  | nil => exact ⟨s, rfl, h⟩
  | cons i is ih =>
    obtain ⟨u, hu, hinv⟩ := h.exec (his i List.mem_cons_self)
    rw [runOps_cons, hu, andThen_next]
    exact ih hinv fun j hj => his j (List.mem_cons_of_mem _ hj)

/-- A decoded vector is `RESET`, `NOP` and strobes (rule R61). -/
theorem event_of_mem_decodeIV6 {o : CoincidentOrder} {v : InputVector} {i : Instr} (h : i ∈ decodeIV6 o v) :
    i = .reset ∨ Claims.isEvent i = true := by
  cases h5 : v.getLsbD 5 with
  | true =>
    rw [decodeIV6_reset h5, List.mem_singleton] at h
    exact .inl h
  | false => rcases mem_decodeIV6 h5 h with rfl | ⟨-, rfl⟩ | ⟨-, rfl⟩ | ⟨-, rfl⟩ <;> exact .inr rfl

theorem BlockInv.takeVector {s : State} (h : BlockInv s) : BlockInv (takeVector s) := by
  unfold Machine.takeVector
  split <;> exact ⟨{ h.ranges with }, { h.mode with }, { h.inject with }⟩

/-- From a state of the invariant a step completes in one (rules R38, R141, R164). -/
theorem BlockInv.step {s : State} (h : BlockInv s) : ∃ t, step s = .next t ∧ BlockInv t := by
  rw [Machine.step, if_pos h.ranges.params_wf]
  exact h.takeVector.runOps fun i hi => event_of_mem_decodeIV6 hi

/-- The line is driven high only by the passthrough of the newer-drive variant (rule R176). -/
theorem BlockInv.pu22Mode_of_inject {s : State} (h : BlockInv s) (hi : s.pu22Inject = true) : s.pu22Mode = true := by
  have hoff : ∀ {P : Prop}, s.pu22Inject = false → P := fun e => absurd (hi.symm.trans e) (by decide)
  have hrun : s.injectionRunning = true := by
    rw [← Bool.not_eq_false]
    exact fun e => hoff (h.inject.idle_released e).2
  have hsend : ∀ r : Region, s.fsm = Region.code r → s.pu22Mode = true := by
    intro r hf
    have e := h.inject.sending_inject r (sendRegion_eq_some_iff.mpr hf)
    rw [hi] at e
    exact (Bool.and_eq_true_iff.mp e.symm).1
  rcases h.inject.running_iff.mp hrun with hf | hf | hf | hf
  · exact hsend .scee hf
  · exact hsend .scea hf
  · exact hsend .scei hf
  · exact hoff (h.inject.ending_low hf).2

theorem BlockInv.released {s : State} (h : BlockInv s) (hr : s.injectionRunning = false) : dataLine s = none ∧ gateLine s = none := by
  obtain ⟨hdir, -, hgdir, -, -⟩ := injectInv_idle_pins h.inject hr
  simp [dataLine, gateLine, hdir, hgdir]

end Sys2Proof.Machine

namespace Sys2Proof.Proofs

open Sys2Proof.Machine

/-- Settles O58: every operation of the decoded vector keeps the invariant (rule R38). -/
theorem everyStepKeepsInv : Obligations.EveryStepKeepsInv := by
  intro s t h hstep
  obtain ⟨u, hu, hinv⟩ := h.step
  rw [hu] at hstep
  cases hstep
  exact hinv

/-- Settles O59: every operation of the decoded vector completes from the invariant (rules R141, R164). -/
theorem noStepStops : Obligations.NoStepStops := by
  intro s h
  obtain ⟨t, ht, -⟩ := h.step
  exact ⟨t, ht⟩

/-- Settles O13: the state after reset is `RESET`'s own, with the default parameters (rules R37, R38). -/
theorem resetStateSatisfiesInv : Obligations.ResetStateSatisfiesInv :=
  blockInv_reset (s := State.reset) (by decide)

/-- Settles O57: without an injection the invariant fixes all four pin registers, before and after the step (rules R151, R176). -/
theorem nobodyDrivesTheLinesWithoutAnInjection : Obligations.NobodyDrivesTheLinesWithoutAnInjection := by
  intro s t h hstep
  have ht : BlockInv t := everyStepKeepsInv s t h hstep
  refine ⟨h.released, ht.released, fun hs hr => ?same, ?gate, fun hline => ?data⟩
  case same =>
    obtain ⟨sdir, sout, sgdir, sgout, -⟩ := injectInv_idle_pins h.inject hs
    obtain ⟨tdir, tout, tgdir, tgout, -⟩ := injectInv_idle_pins ht.inject hr
    exact ⟨tdir.trans sdir.symm, tout.trans sout.symm, tgdir.trans sgdir.symm, tgout.trans sgout.symm⟩
  case gate => simp [gateLine, ht.inject.gateOut_low]
  case data =>
    have hout : t.dataOut = true := by simpa [dataLine] using (Option.ite_none_right_eq_some.mp hline).2
    have hinj := ht.inject.dataOut_mirrors hout
    exact ⟨ht.pu22Mode_of_inject hinj, hinj⟩

end Sys2Proof.Proofs
end

section
/-! SUPPORT. No operation refuses; what a cycle without a tick leaves alone; and the request through a cycle; with the statements about
them (rules R47, R123, R175). -/

namespace Sys2Proof.Machine

/-! ## Refusals -/

theorem runPktRow_not_refused (r : PktRow) (p : PacketWord) (s : State) (w : Refusal) : runPktRow r p s ≠ .refused w := by
  have hup : hystUp s ≠ .refused w := by
    unfold hystUp
    split <;> nofun
  have hdown : hystDown s ≠ .refused w := by
    unfold hystDown
    split
    · nofun
    · split <;> nofun
  cases r
  case other => exact hdown
  all_goals exact hup

theorem packetDone_not_refused (s : State) (w : Refusal) : packetDone s ≠ .refused w := by
  unfold packetDone
  split
  · rw [classify, Ne, andThen_eq_refused]
    rintro (h | ⟨t, -, h⟩)
    · exact runPktRow_not_refused _ _ _ _ h
    · cases h
  · nofun

theorem storeByte_not_refused (s : State) (w : Refusal) : storeByte s ≠ .refused w := by
  rw [storeByte, Ne, andThen_eq_refused]
  rintro (h | ⟨t, -, h⟩)
  · unfold pktWrite at h
    split at h <;> cases h
  · cases h

theorem execSqckRise_not_refused (d : Bool) (s : State) (w : Refusal) : execSqckRise d s ≠ .refused w := by
  simp only [execSqckRise]
  split
  · rw [Ne, andThen_eq_refused]
    rintro (h | ⟨t, -, h⟩)
    · exact storeByte_not_refused _ _ h
    · exact packetDone_not_refused _ _ h
  · nofun

theorem startBit_not_refused (k : Nat) (s : State) (w : Refusal) : startBit k s ≠ .refused w := by
  cases hb : bitAt k s.sym.toNat with
  | none => rw [startBit_fault hb]; nofun
  | some b => rw [startBit_eq hb]; nofun

theorem runRegion_not_refused (r : Region) (s : State) (w : Refusal) : runRegion r s ≠ .refused w := by
  rw [runRegion_eq_startBit]
  exact startBit_not_refused _ _ _

theorem afterPause_not_refused (r : Region) (s : State) (w : Refusal) : afterPause r s ≠ .refused w := by
  have hbegin : ∀ (q : Region) (u : State), beginString q u ≠ .refused w := fun q u => runRegion_not_refused q _ w
  cases r with
  | scee => exact hbegin _ _
  | scea => exact hbegin _ _
  | scei =>
    simp only [afterPause]
    split
    · exact hbegin _ _
    · nofun

theorem send_not_refused (r : Region) (s : State) (w : Refusal) : send r s ≠ .refused w := by
  unfold send
  split
  · nofun
  · split
    · exact afterPause_not_refused _ _ _
    · split
      · exact runRegion_not_refused _ _ _
      · split <;> nofun

theorem runFsmRow_not_refused (r : FsmRow) (s : State) (w : Refusal) : runFsmRow r s ≠ .refused w := by
  cases r
  case waitMode =>
    change execWaitMode s ≠ _
    unfold execWaitMode
    split <;> nofun
  case waitReq =>
    change execWaitReq s ≠ _
    unfold execWaitReq
    split <;> nofun
  case sendE => exact send_not_refused .scee s w
  case sendA => exact send_not_refused .scea s w
  case sendI => exact send_not_refused .scei s w
  case start | endInjection | reserved7 => nofun

/-- No operation answers a refusal. -/
theorem exec_not_refused (i : Instr) (s : State) (w : Refusal) : exec i s ≠ .refused w := by
  cases i
  case reset | nop | gateEdge => nofun
  case sqckRise d => exact execSqckRise_not_refused d s w
  case usTick =>
    rw [exec_usTick]
    exact runFsmRow_not_refused _ _ w
  case pktOther p => exact runPktRow_not_refused .other p s w
  case waitMode => exact runFsmRow_not_refused .waitMode s w
  case waitReq => exact runFsmRow_not_refused .waitReq s w
  case start => exact runFsmRow_not_refused .start s w
  case sendE => exact runFsmRow_not_refused .sendE s w
  case sendA => exact runFsmRow_not_refused .sendA s w
  case sendI => exact runFsmRow_not_refused .sendI s w
  case endInjection => exact runFsmRow_not_refused .endInjection s w
  case fsmReserved7 => exact runFsmRow_not_refused .reserved7 s w
  case sym0 => rw [exec_sym0]; nofun
  case sym1 => rw [exec_sym1]; nofun
  case strScee | strScea | strScei => exact startBit_not_refused _ s w
  -- the ten matching packet classes
  all_goals exact runPktRow_not_refused .primaryA0 0 s w

theorem runOps_not_refused (is : List Instr) (s : State) (w : Refusal) : runOps is s ≠ .refused w := by
  induction is generalizing s with
  | nil => nofun
  | cons i is ih =>
    rw [runOps_cons, Ne, andThen_eq_refused]
    rintro (h | ⟨t, -, h⟩)
    · exact exec_not_refused i s w h
    · exact ih t h

/-! ## Runs of operations -/

/-- A relation that every operation of a list keeps to, that holds of a state and itself, and that chains, holds over a run of the list. -/
theorem runOps_rel {R : State → State → Prop} (hrefl : ∀ s, R s s) (htrans : ∀ {s t u}, R s t → R t u → R s u) {is : List Instr}
    (his : ∀ i ∈ is, ∀ s t, exec i s = .next t → R s t) {s t : State} (h : runOps is s = .next t) : R s t := by
  induction is generalizing s with
  | nil =>
    cases h
    exact hrefl _
  | cons i is ih =>
    rw [runOps_cons, andThen_eq_next] at h
    obtain ⟨u, hu, hrest⟩ := h
    exact htrans (his i List.mem_cons_self s u hu) (ih (fun j hj => his j (List.mem_cons_of_mem _ hj)) hrest)

theorem wf_of_step {s t : State} (h : step s = .next t) : s.params.wf = true := by
  unfold step at h
  split at h
  · assumption
  · cases h

/-- What neither a sample nor an edge moves (rule R123). -/
def ControllerKept (s t : State) : Prop :=
  t.fsm = s.fsm ∧ t.round = s.round ∧ t.sym = s.sym ∧ t.delayCnt = s.delayCnt ∧ t.injectionRunning = s.injectionRunning ∧
  t.pu22Inject = s.pu22Inject ∧ t.dataDir = s.dataDir ∧ t.gateDir = s.gateDir ∧ t.gateOut = s.gateOut ∧ t.usCount = s.usCount ∧
  (s.pu22Inject = false → t.dataOut = s.dataOut)

theorem ControllerKept.refl (s : State) : ControllerKept s s := ⟨rfl, rfl, rfl, rfl, rfl, rfl, rfl, rfl, rfl, rfl, fun _ => rfl⟩

theorem ControllerKept.trans {s t u : State} (h : ControllerKept s t) (h' : ControllerKept t u) : ControllerKept s u := by
  obtain ⟨a1, a2, a3, a4, a5, a6, a7, a8, a9, a10, a11⟩ := h
  obtain ⟨b1, b2, b3, b4, b5, b6, b7, b8, b9, b10, b11⟩ := h'
  exact ⟨b1.trans a1, b2.trans a2, b3.trans a3, b4.trans a4, b5.trans a5, b6.trans a6, b7.trans a7, b8.trans a8, b9.trans a9,
    b10.trans a10, fun hi => (b11 (a6.trans hi)).trans (a11 hi)⟩

theorem execSqckRise_controllerKept {d : Bool} {s t : State} (h : execSqckRise d s = .next t) : ControllerKept s t := by
  rw [execSqckRise_frame h]
  exact ControllerKept.refl s

theorem execGateEdge_controllerKept {l : Bool} {s t : State} (h : execGateEdge l s = .next t) : ControllerKept s t := by
  obtain ⟨u, hu, -, -, hout, -⟩ := Proofs.gateEdgeFrame s l
  have hut : u = t := by
    rw [show exec (.gateEdge l) s = .next t from h] at hu
    cases hu
    rfl
  subst hut
  have hframe := execGateEdge_frame h
  obtain ⟨c1, c2, c3, c4, c5, c6, c7, c8, c9, c10, -⟩ : ControllerKept { s with dataOut := u.dataOut } u := by
    rw [hframe]
    exact ControllerKept.refl _
  exact ⟨c1, c2, c3, c4, c5, c6, c7, c8, c9, c10, hout⟩

end Sys2Proof.Machine

namespace Sys2Proof.Proofs

open Sys2Proof.Machine

/-- Settles O3: the step is the only place that refuses, by the six constraints (rules R7, R175; notes/assumptions/15.md). -/
theorem onlyUnsupportedParametersAreRefused : Obligations.OnlyUnsupportedParametersAreRefused := by
  refine ⟨fun s w => ?step, exec_not_refused, fun p => ?constraints⟩
  case step =>
    cases hwf : s.params.wf with
    | true =>
      rw [step, if_pos hwf]
      exact ⟨fun h => absurd h (runOps_not_refused _ _ w), fun h => absurd h.1 (by decide)⟩
    | false =>
      rw [step, if_neg (by simp [hwf])]
      exact ⟨fun h => ⟨rfl, by cases h; rfl⟩, fun h => by rw [h.2]⟩
  case constraints =>
    simp only [Params.wf, Bool.and_eq_true, decide_eq_true_eq, and_assoc]
    exact Iff.rfl

/-- Settles O55: the decoded operations are samples, edges and `NOP` (rules R61, R123). -/
theorem onlyTicksMoveTheController : Obligations.OnlyTicksMoveTheController := by
  intro s t v vs hv h5 h4 hstep
  rw [step_eq_runOps (wf_of_step hstep) hv] at hstep
  change ControllerKept { s with stimulus := vs } t
  refine runOps_rel ControllerKept.refl ControllerKept.trans (fun i hi a b hab => ?_) hstep
  rcases mem_decodeIV6 h5 hi with rfl | ⟨-, rfl⟩ | ⟨-, rfl⟩ | ⟨htick, -⟩
  · cases hab
    exact ControllerKept.refl _
  · exact execSqckRise_controllerKept hab
  · exact execGateEdge_controllerKept hab
  · rw [h4] at htick
    cases htick

/-- A request that is pending at the tick stays, or `WAIT_REQ` consumes it; in `WAIT_REQ` it is consumed (rule R113). -/
theorem usTick_pending_request {s t : State} (h : exec .usTick s = .next t) (hp : s.reqPending = true) :
    (t.reqPending = true ∨ (s.fsm = 1 ∧ t.fsm = 2)) ∧ (s.fsm = 1 → t.reqPending = false ∧ t.fsm = 2) := by
  constructor
  · rcases (execUsTick_frame h).2 with hreq | ⟨hf, -, -, hstart⟩
    · exact .inl (hreq.trans hp)
    · exact .inr ⟨hf, hstart⟩
  · intro hf
    rw [exec_usTick, fsmRow_eq_waitReq.mpr hf] at h
    change execWaitReq _ = _ at h
    rw [execWaitReq, if_pos (by simpa using hp)] at h
    cases h
    exact ⟨rfl, rfl⟩

/-- Settles O56: the sample and the edge before the tick keep the request and the state code (rules R47, R62, R113). -/
theorem requestsAreNeitherLostNorDoubled : Obligations.RequestsAreNeitherLostNorDoubled := by
  intro s t v vs hv h5 hsgt hstep hp
  rw [(cyclePerformsResetAloneElseInOrder s v vs (wf_of_step hstep) hv).2 h5 hsgt, andThen_eq_next] at hstep
  obtain ⟨a, ha, hstep⟩ := hstep
  rw [andThen_eq_next] at hstep
  obtain ⟨b, hb, htick⟩ := hstep
  have ha' : a.fsm = s.fsm ∧ a.reqPending = true := by
    split at ha
    · exact ⟨(execSqckRise_controllerKept ha).1, execSqckRise_keeps_request ha hp⟩
    · cases ha
      exact ⟨rfl, hp⟩
  have hb' : b.fsm = s.fsm ∧ b.reqPending = true := by
    split at hb
    · rw [execGateEdge_frame hb]
      exact ha'
    · cases hb
      exact ha'
  rw [← hb'.1]
  split at htick
  · obtain ⟨hkeep, hconsume⟩ := usTick_pending_request htick hb'.2
    exact ⟨hkeep, fun hf _ => hconsume hf⟩
  · rename_i h4
    cases htick
    exact ⟨.inl hb'.2, fun _ h4' => absurd h4' h4⟩

end Sys2Proof.Proofs
end

section
/-! SUPPORT. A tick in a `SEND` state as an equation per case, the number of ticks that an injection still takes, and the tick at which each
symbol starts; with the statements about them (rules R114 to R122, R124). -/

namespace Sys2Proof.Machine

/-! ## Ticks in a row -/

theorem ticks_zero (s : State) : ticks 0 s = .next s := rfl

theorem ticks_succ (n : Nat) (s : State) : ticks (n + 1) s = andThen (exec .usTick s) (ticks n) := rfl

theorem ticks_add (m n : Nat) (s : State) : ticks (m + n) s = andThen (ticks m s) (ticks n) := by
  induction m generalizing s with
  | zero => rw [Nat.zero_add, ticks_zero, andThen_next]
  | succ m ih =>
    rw [Nat.add_right_comm, ticks_succ, ticks_succ, andThen_assoc]
    exact congrArg _ (funext ih)

/-- The time base after `n` ticks, at least one (rule R111). -/
theorem ticks_usCount {n : Nat} {s t : State} (h : ticks n s = .next t) (hn : 1 ≤ n) :
    t.params = s.params ∧ t.usCount = (s.usCount + n) % 2 ^ s.params.tsw := by
  induction n generalizing s with
  | zero => omega
  | succ n ih =>
    rw [ticks_succ, andThen_eq_next] at h
    obtain ⟨u, hu, hrest⟩ := h
    have hparams : u.params = s.params := by rw [(execUsTick_frame hu).1]
    have hus := exec_usTick_usCount hu
    rcases Nat.eq_zero_or_pos n with rfl | hpos
    · cases hrest
      exact ⟨hparams, hus⟩
    · obtain ⟨tparams, tus⟩ := ih hrest hpos
      refine ⟨tparams.trans hparams, ?_⟩
      rw [tus, hparams, hus, Nat.mod_add_mod, Nat.add_assoc, Nat.add_comm 1 n]

/-! ## One tick -/

/-- With the mode final a tick in a `SEND` state is the time base and that state's action (rule R110). -/
theorem exec_usTick_send {r : Region} {s : State} (hm : s.modeDetected = true) (hf : s.fsm = Region.code r) :
    exec .usTick s = send r (timebase s) := by
  rw [exec_usTick_of_final hm, hf]
  cases r <;> rfl

theorem symbolEffect_keeps (b : BitVec 1) (s : State) :
    (Claims.symbolEffect b s).params = s.params ∧ (Claims.symbolEffect b s).pu22Mode = s.pu22Mode ∧
    (Claims.symbolEffect b s).modeDetected = s.modeDetected ∧ (Claims.symbolEffect b s).injectionRunning = s.injectionRunning ∧
    (Claims.symbolEffect b s).round = s.round ∧ gateLine (Claims.symbolEffect b s) = gateLine s ∧
    (s.dataOut = false → (Claims.symbolEffect b s).dataOut = false) := by
  rw [symbolEffect_eq]
  exact ⟨rfl, rfl, rfl, rfl, rfl, rfl, fun h => by simp [h]⟩

/-- The number of a string in the injection, 0 to 5 (rule R122). -/
def stringNumber (r : Region) (s : State) : Nat := 3 * s.round.toNat + r.index

/-- After the pause of any string but the sixth the string with the next number begins (rules R115, R117). -/
theorem afterPause_of_lt {r : Region} {s : State} (h : stringNumber r s < 5) :
    ∃ (q : Region) (rd : BitVec 1), 3 * rd.toNat + q.index = stringNumber r s + 1 ∧
      afterPause r s = .next { Claims.symbolEffect 1 s with
        fsm := Region.code q, round := rd, sym := 1, delayCnt := s.params.tBitUs - 1 } := by
  have hbegin : ∀ (q : Region) (rd : BitVec 1), beginString q { s with round := rd } =
      .next { Claims.symbolEffect 1 s with fsm := Region.code q, round := rd, sym := 1, delayCnt := s.params.tBitUs - 1 } := by
    intro q rd
    rw [beginString_eq, symbolEffect_eq, symbolEffect_eq]
  cases r with
  | scee => exact ⟨.scea, s.round, rfl, hbegin .scea s.round⟩
  | scea => exact ⟨.scei, s.round, rfl, hbegin .scei s.round⟩
  | scei =>
    have hround : s.round = 0 := by
      revert h
      unfold stringNumber
      generalize s.round = rd
      revert rd
      decide
    refine ⟨.scee, 1, by simp [stringNumber, Region.index, hround], ?_⟩
    simp only [afterPause, if_pos hround]
    exact hbegin .scee 1

/-- The sixth string is SCEI in round 1 (rule R117). -/
theorem round_of_last {r : Region} {s : State} (h : stringNumber r s = 5) : r = .scei ∧ s.round = 1 := by
  revert h
  unfold stringNumber
  generalize s.round = rd
  revert rd
  cases r <;> decide

theorem isLastString_eq_false {r : Region} {s : State} (h : stringNumber r s < 5) : isLastString r s = false := by
  cases r with
  | scee | scea => rfl
  | scei =>
    rw [isLastString_scei]
    revert h
    unfold stringNumber
    generalize s.round = rd
    revert rd
    decide

/-! ## A place in an injection -/

/-- The controller is in string `r`, which has number `k`, with symbol counter `j` and delay `d`, in the injection that began at `START` in
the state `s₀`. -/
structure AtSymbol (s₀ : State) (r : Region) (k j d : Nat) (t : State) : Prop where
  params_eq : t.params = s₀.params
  mode_eq : t.pu22Mode = s₀.pu22Mode
  final : t.modeDetected = true
  running : t.injectionRunning = true
  fsm_eq : t.fsm = Region.code r
  number_eq : stringNumber r t = k
  sym_eq : t.sym.toNat = j
  delay_eq : t.delayCnt = d
  dataOut_low : t.dataOut = false
  gate_eq : gateLine t = if s₀.pu22Mode then gateLine s₀ else some false
  pins : s₀.pu22Inject = false → SymbolPins r t

variable {s₀ s : State} {r : Region} {k j d : Nat}

/-- The `START` tick (rule R114). -/
theorem tick_start (hm : s₀.modeDetected = true) (hf : s₀.fsm = 2) :
    ∃ t, exec .usTick s₀ = .next t ∧ AtSymbol s₀ .scee 0 0 0 t := by
  have hrow : fsmRow s₀.fsm = .start := by
    rw [hf]
    rfl
  have htick : exec .usTick s₀ = exec .start (timebase s₀) := by rw [exec_usTick_of_final hm, hrow, runFsmRow_eq_exec]; rfl
  refine ⟨_, htick.trans (exec_start _), ?_⟩
  refine ⟨by simp, by simp, by simpa using hm, rfl, rfl, rfl, rfl, rfl, by simp, ?gate, fun hi => ⟨?inject, ?dir⟩⟩
  case gate => cases hp : s₀.pu22Mode <;> simp [gateLine, hp]
  case inject => simpa [lastSymbolIsOne_zero] using hi
  case dir => simp [lastSymbolIsOne_zero]

theorem tick_delay (h : AtSymbol s₀ r k j (d + 1) s) : ∃ t, exec .usTick s = .next t ∧ AtSymbol s₀ r k j d t := by
  have hd : (timebase s).delayCnt ≠ 0 := by
    change s.delayCnt ≠ 0
    rw [h.delay_eq]
    exact Nat.succ_ne_zero d
  refine ⟨_, (exec_usTick_send h.final h.fsm_eq).trans (send_of_delay r hd), { h with delay_eq := ?_, pins := fun hi => ?_ }⟩
  · exact congrArg (· - 1) h.delay_eq
  · exact { h.pins hi with }

/-- A bit of string `q` has just been started from a place in the injection (rules R115, R118, R119). -/
theorem atSymbol_of_bit {q : Region} {rd b : BitVec 1} {i : Nat} {jj : BitVec 6} (h : AtSymbol s₀ r k j d s)
    (hb : (Claims.printedBits q)[i]? = some b) (hj : jj.toNat = i + 1) :
    AtSymbol s₀ q (3 * rd.toNat + q.index) (i + 1) (s₀.params.tBitUs - 1) { Claims.symbolEffect b (timebase s) with
      fsm := Region.code q, round := rd, sym := jj, delayCnt := s.params.tBitUs - 1 } := by
  obtain ⟨hparams, hmode, hfinal, hrun, -, hgate, hout⟩ := symbolEffect_keeps b (timebase s)
  refine ⟨hparams.trans h.params_eq, hmode.trans h.mode_eq, hfinal.trans h.final, hrun.trans h.running, rfl, rfl, hj,
    by rw [← h.params_eq], hout h.dataOut_low, hgate.trans h.gate_eq, fun hi => ?_⟩
  exact symbolPins_of_bit (r := r) { h.pins hi with } hb hj

theorem tick_bit (hj : j < 44) (h : AtSymbol s₀ r k j 0 s) :
    ∃ t, exec .usTick s = .next t ∧ AtSymbol s₀ r k (j + 1) (s₀.params.tBitUs - 1) t := by
  obtain ⟨b, hb⟩ := bitAt_isSome (region_index_lt r) hj
  rw [bitAt_eq_printedBits] at hb
  have hbit : (Claims.printedBits r)[(timebase s).sym.toNat]? = some b := by
    change (Claims.printedBits r)[s.sym.toNat]? = some b
    rwa [h.sym_eq]
  have hsucc : (s.sym + 1).toNat = j + 1 := by
    rw [BitVec.toNat_add, h.sym_eq]
    exact Nat.mod_eq_of_lt (by simp; omega)
  have hat := atSymbol_of_bit (rd := s.round) h hb hsucc
  refine ⟨_, (exec_usTick_send h.final h.fsm_eq).trans ((send_of_bit r (s := timebase s) h.delay_eq (by exact h.sym_eq ▸ hj)).trans
    (runRegion_of_bit hbit)), ?_⟩
  rw [show 3 * s.round.toNat + r.index = k from h.number_eq, symbolEffect_eq] at hat
  rw [symbolEffect_eq]
  exact h.fsm_eq ▸ hat

theorem tick_pause (hk : k < 5 ∨ s₀.params.pauseAfterLast = true) (h : AtSymbol s₀ r k 44 0 s) :
    ∃ t, exec .usTick s = .next t ∧ AtSymbol s₀ r k 45 (s₀.params.tStringUs - 1) t := by
  have hsym : s.sym = 44 := BitVec.eq_of_toNat_eq h.sym_eq
  have hpause : afterBits r (timebase s) = startPause (timebase s) := by
    refine afterBits_of_pause (hk.imp (fun hlt => isLastString_eq_false ?_) fun hlast => ?_)
    · exact h.number_eq.trans_lt hlt
    · exact h.params_eq ▸ hlast
  refine ⟨_, (exec_usTick_send h.final h.fsm_eq).trans (send_of_bits_over r h.delay_eq hsym), ?_⟩
  rw [hpause]
  exact { h with
    sym_eq := rfl
    delay_eq := congrArg (fun p : Params => p.tStringUs - 1) h.params_eq
    pins := fun hi => symbolPins_startPause (s := timebase s) { h.pins hi with } hsym }

theorem tick_next (hk : k < 5) (h : AtSymbol s₀ r k 45 0 s) :
    ∃ q t, exec .usTick s = .next t ∧ AtSymbol s₀ q (k + 1) 1 (s₀.params.tBitUs - 1) t := by
  have hsym : s.sym = 45 := BitVec.eq_of_toNat_eq h.sym_eq
  obtain ⟨q, rd, hnumber, hpause⟩ := afterPause_of_lt (r := r) (s := timebase s) (h.number_eq.trans_lt hk)
  refine ⟨q, _, (exec_usTick_send h.final h.fsm_eq).trans ((send_of_pause_over r (s := timebase s) h.delay_eq hsym).trans hpause), ?_⟩
  rw [← h.number_eq]
  exact hnumber ▸ atSymbol_of_bit h (printedBits_zero q) rfl

/-- The tick at which the pause of the sixth string is over (rules R115, R117). -/
theorem tick_finish (h : AtSymbol s₀ r 5 45 0 s) : exec .usTick s = .next (finishInjection (timebase s)) ∧ s.round = 1 := by
  obtain ⟨rfl, hround⟩ := round_of_last h.number_eq
  have hsym : s.sym = 45 := BitVec.eq_of_toNat_eq h.sym_eq
  refine ⟨(exec_usTick_send h.final h.fsm_eq).trans ((send_of_pause_over .scei (s := timebase s) h.delay_eq hsym).trans (if_neg ?_)), hround⟩
  change ¬ s.round = 0
  rw [hround]
  decide

/-! ## The ticks that are left -/

/-- The ticks from a place in an injection until `fsm` is `END`: the delay that runs, the bits and the pause of the string that are not yet
started, and the strings after it (rule R122). -/
def ticksLeft (p : Params) (k j d : Nat) : Nat :=
  d + 1 + (if j ≤ 44 then (44 - j) * p.tBitUs + p.tStringUs else 0) + (5 - k) * p.stringTicks

/-- In the injection that began in `s₀`, `fsm` is `END` after `m` more ticks. -/
def EndsIn (s₀ : State) (m : Nat) (s : State) : Prop :=
  (∃ r k j d, AtSymbol s₀ r k j d s ∧ k ≤ 5 ∧ j ≤ 45 ∧ m = ticksLeft s₀.params k j d) ∨
  (m = 0 ∧ s.fsm = 6 ∧ s.pu22Mode = s₀.pu22Mode ∧ s.modeDetected = true ∧ s.injectionRunning = true ∧ s.round = 1 ∧ s.sym = 0 ∧
    s.delayCnt = 0)

theorem ticksLeft_bit (p : Params) (k : Nat) {j : Nat} (hj : j < 44) (hwf : 1 ≤ p.tBitUs) :
    ticksLeft p k (j + 1) (p.tBitUs - 1) + 1 = ticksLeft p k j 0 := by
  have hmul : (44 - j) * p.tBitUs = (44 - (j + 1)) * p.tBitUs + p.tBitUs := by
    rw [← Nat.succ_mul]
    congr 1
    omega
  rw [ticksLeft, ticksLeft, if_pos (by omega), if_pos (by omega), hmul]
  omega

theorem ticksLeft_pause (p : Params) (k : Nat) (hwf : 1 ≤ p.tStringUs) :
    ticksLeft p k 45 (p.tStringUs - 1) + 1 = ticksLeft p k 44 0 := by
  rw [ticksLeft, ticksLeft, if_neg (by decide), if_pos (by decide)]
  omega

theorem ticksLeft_next (p : Params) {k : Nat} (hk : k < 5) (hwf : 1 ≤ p.tBitUs) :
    ticksLeft p (k + 1) 1 (p.tBitUs - 1) + 1 = ticksLeft p k 45 0 := by
  have hmul : (5 - k) * p.stringTicks = (5 - (k + 1)) * p.stringTicks + p.stringTicks := by
    rw [← Nat.succ_mul]
    congr 1
    omega
  have hlen : p.stringTicks = 44 * p.tBitUs + p.tStringUs := rfl
  rw [ticksLeft, ticksLeft, if_pos (by decide), if_neg (by decide), hmul]
  omega

/-- Every tick of an injection brings its `END` one tick nearer (rules R115 to R117, R120). -/
theorem EndsIn.tick {m : Nat} (hbit : 1 ≤ s₀.params.tBitUs) (hstr : 1 ≤ s₀.params.tStringUs) (hlast : s₀.params.pauseAfterLast = true)
    (h : EndsIn s₀ (m + 1) s) : ∃ t, exec .usTick s = .next t ∧ EndsIn s₀ m t := by
  obtain ⟨r, k, j, d, hat, hk, hj, hm⟩ | ⟨h0, -⟩ := h
  · cases d with
    | succ d =>
      obtain ⟨t, ht, hat⟩ := tick_delay hat
      exact ⟨t, ht, .inl ⟨r, k, j, d, hat, hk, hj, by unfold ticksLeft at hm ⊢; omega⟩⟩
    | zero =>
      rcases Nat.lt_trichotomy j 44 with hlt | rfl | hgt
      · obtain ⟨t, ht, hat⟩ := tick_bit hlt hat
        have := ticksLeft_bit s₀.params k hlt hbit
        exact ⟨t, ht, .inl ⟨r, k, _, _, hat, hk, by omega, by omega⟩⟩
      · obtain ⟨t, ht, hat⟩ := tick_pause (.inr hlast) hat
        have := ticksLeft_pause s₀.params k hstr
        exact ⟨t, ht, .inl ⟨r, k, _, _, hat, hk, le_refl _, by omega⟩⟩
      · obtain rfl : j = 45 := by omega
        rcases Nat.lt_or_eq_of_le hk with hlt | rfl
        · obtain ⟨q, t, ht, hat⟩ := tick_next hlt hat
          have := ticksLeft_next s₀.params hlt hbit
          exact ⟨t, ht, .inl ⟨q, _, _, _, hat, hlt, by decide, by omega⟩⟩
        · obtain ⟨ht, hround⟩ := tick_finish hat
          have hm0 : m = 0 := by simpa [ticksLeft] using hm
          exact ⟨_, ht, .inr ⟨hm0, rfl, hat.mode_eq, hat.final, hat.running, hround, rfl, hat.delay_eq⟩⟩
  · cases h0

theorem EndsIn.ticks {m : Nat} (hbit : 1 ≤ s₀.params.tBitUs) (hstr : 1 ≤ s₀.params.tStringUs) (hlast : s₀.params.pauseAfterLast = true)
    (n : Nat) (h : EndsIn s₀ (m + n) s) : ∃ t, ticks n s = .next t ∧ EndsIn s₀ m t := by
  induction n generalizing s with
  | zero => exact ⟨s, rfl, h⟩
  | succ n ih =>
    obtain ⟨u, hu, hends⟩ := EndsIn.tick hbit hstr hlast h
    rw [ticks_succ, hu, andThen_next]
    exact ih hends

theorem EndsIn.running {m : Nat} (h : EndsIn s₀ m s) : s.injectionRunning = true := by
  obtain ⟨r, k, j, d, hat, -⟩ | ⟨-, -, -, -, hrun, -⟩ := h
  · exact hat.running
  · exact hrun

theorem EndsIn.fsm_eq_end_iff {m : Nat} (h : EndsIn s₀ m s) : s.fsm = 6 ↔ m = 0 := by
  obtain ⟨r, k, j, d, hat, -, -, hm⟩ | ⟨hm, hf, -⟩ := h
  · have hne : s.fsm ≠ 6 := by
      rw [hat.fsm_eq]
      cases r <;> decide
    exact ⟨fun e => absurd e hne, fun e => by unfold ticksLeft at hm; omega⟩
  · exact ⟨fun _ => hm, fun _ => hf⟩

/-- The `END` tick (rule R121). -/
theorem EndsIn.end_tick (h : EndsIn s₀ 0 s) : ∃ t, exec .usTick s = .next t ∧ t.injectionRunning = false ∧ t.fsm = 1 ∧ t.dataDir = false ∧
    (s₀.pu22Mode = false → t.gateDir = false) ∧ t.round = 1 ∧ t.sym = 0 ∧ t.delayCnt = 0 := by
  obtain ⟨r, k, j, d, -, -, -, hm⟩ | ⟨-, hf, hmode, hfinal, -, hround, hsym, hdelay⟩ := h
  · unfold ticksLeft at hm
    omega
  · have hrow : fsmRow s.fsm = .endInjection := by
      rw [hf]
      rfl
    have htick : exec .usTick s = exec .endInjection (timebase s) := by
      rw [exec_usTick_of_final hfinal, hrow, runFsmRow_eq_exec]
      rfl
    refine ⟨_, htick.trans (exec_endInjection _), rfl, rfl, by simp, fun hp => ?_, by simpa using hround, by simpa using hsym,
      by simpa using hdelay⟩
    simp [hmode, hp]

/-! ## The tick of each symbol -/

/-- `n` ticks after `s₀` the injection stands in the string with number `k`, with symbol counter `j` and delay `d`. -/
def Reaches (s₀ : State) (n k j d : Nat) : Prop := ∃ r t, ticks n s₀ = .next t ∧ AtSymbol s₀ r k j d t

variable {n k' j' d' : Nat}

theorem Reaches.tick (h : Reaches s₀ n k j d)
    (hstep : ∀ r s, AtSymbol s₀ r k j d s → ∃ q t, exec .usTick s = .next t ∧ AtSymbol s₀ q k' j' d' t) : Reaches s₀ (n + 1) k' j' d' := by
  obtain ⟨r, s, hs, hat⟩ := h
  obtain ⟨q, t, ht, hat'⟩ := hstep r s hat
  exact ⟨q, t, by rw [ticks_add, hs, andThen_next, ticks_succ, ht, andThen_next, ticks_zero], hat'⟩

/-- The delay runs out, one tick after another (rule R116). -/
theorem Reaches.delay_over (h : Reaches s₀ n k j d) : Reaches s₀ (n + d) k j 0 := by
  induction d generalizing n with
  | zero => exact h
  | succ d ih =>
    rw [Nat.add_comm d 1, ← Nat.add_assoc]
    exact ih (h.tick fun r s hat => ⟨r, tick_delay hat⟩)

/-- Bit `i` of a string starts `i` bit periods after bit 0 (rule R122). -/
theorem Reaches.bits (hbit : 1 ≤ s₀.params.tBitUs) (h : Reaches s₀ n k 1 (s₀.params.tBitUs - 1)) {i : Nat} (hi : i < 44) :
    Reaches s₀ (n + i * s₀.params.tBitUs) k (i + 1) (s₀.params.tBitUs - 1) := by
  induction i with
  | zero => simpa using h
  | succ i ih =>
    have hnext := (ih (by omega)).delay_over.tick fun r s hat => ⟨r, tick_bit hi hat⟩
    convert hnext using 1
    rw [Nat.succ_mul]
    omega

/-- The pause starts 44 bit periods after bit 0 (rules R120, R122). -/
theorem Reaches.pause (hbit : 1 ≤ s₀.params.tBitUs) (hk : k < 5 ∨ s₀.params.pauseAfterLast = true)
    (h : Reaches s₀ n k 1 (s₀.params.tBitUs - 1)) : Reaches s₀ (n + 44 * s₀.params.tBitUs) k 45 (s₀.params.tStringUs - 1) := by
  have hnext := (h.bits hbit (i := 43) (by decide)).delay_over.tick fun r s hat => ⟨r, tick_pause hk hat⟩
  convert hnext using 1
  omega

/-- String number `k` starts `k` string lengths after the first (rule R122). -/
theorem reaches_string (hbit : 1 ≤ s₀.params.tBitUs) (hstr : 1 ≤ s₀.params.tStringUs) (hm : s₀.modeDetected = true) (hf : s₀.fsm = 2)
    (hk : k < 6) : Reaches s₀ (2 + k * s₀.params.stringTicks) k 1 (s₀.params.tBitUs - 1) := by
  induction k with
  | zero =>
    obtain ⟨t, ht, hat⟩ := tick_start hm hf
    have hstart : Reaches s₀ 1 0 0 0 := ⟨_, t, by rw [ticks_succ, ht, andThen_next, ticks_zero], hat⟩
    convert hstart.tick fun r s hat => ⟨r, tick_bit (by decide) hat⟩ using 1
    omega
  | succ k ih =>
    have hk5 : k < 5 := by omega
    have hnext := ((ih (by omega)).pause hbit (.inl hk5)).delay_over.tick fun r s hat => tick_next hk5 hat
    have hlen : s₀.params.stringTicks = 44 * s₀.params.tBitUs + s₀.params.tStringUs := rfl
    convert hnext using 1
    rw [Nat.succ_mul]
    omega

/-- The number of a string names the string and the round (rule R122). -/
theorem place_of_number (h : stringNumber r s = k) :
    r = Claims.stringNo k ∧ (Region.code r).toNat = 3 + k % 3 ∧ s.round.toNat = k / 3 := by
  subst h
  unfold stringNumber
  generalize s.round = rd
  revert rd
  cases r <;> decide

end Sys2Proof.Machine

namespace Sys2Proof.Proofs

open Sys2Proof.Machine

/-- Settles O53: after the `START` tick `6 L + 1` ticks are left until `END` (rules R114, R121, R122). -/
theorem injectionLastsItsFixedTime : Obligations.InjectionLastsItsFixedTime := by
  intro s hwf hlast hm hf
  obtain ⟨hbit, hstr, -⟩ := (onlyUnsupportedParametersAreRefused.2.2 s.params).mp hwf
  obtain ⟨u, hu, hat⟩ := tick_start hm hf
  have hlen : s.params.stringTicks = 44 * s.params.tBitUs + s.params.tStringUs := rfl
  have hstart : EndsIn s (6 * s.params.stringTicks + 1) u :=
    .inl ⟨_, _, _, _, hat, by decide, by decide, by rw [ticksLeft, if_pos (by decide)]; omega⟩
  have hticks : ∀ n, ticks (n + 1) s = ticks n u := fun n => by rw [ticks_succ, hu, andThen_next]
  refine ⟨fun n h1 hn => ?during, ?after⟩
  case during =>
    obtain ⟨n, rfl⟩ := Nat.exists_eq_succ_of_ne_zero (Nat.one_le_iff_ne_zero.mp h1)
    obtain ⟨t, ht, hends⟩ := EndsIn.ticks (m := 6 * s.params.stringTicks + 1 - n) hbit hstr hlast n (by convert hstart using 1; omega)
    rw [← hticks] at ht
    refine ⟨t, ht, hends.running, (ticks_usCount ht h1).2, hends.fsm_eq_end_iff.trans ?_⟩
    omega
  case after =>
    obtain ⟨t, ht, hends⟩ := EndsIn.ticks (m := 0) hbit hstr hlast (6 * s.params.stringTicks + 1) (by simpa using hstart)
    obtain ⟨w, hw, hdone⟩ := hends.end_tick
    refine ⟨w, ?_, hdone⟩
    rw [hticks (6 * s.params.stringTicks + 2), ticks_add (6 * s.params.stringTicks + 1) 1, ht, andThen_next, ticks_succ, hw, andThen_next,
      ticks_zero]

/-- Settles O54: each symbol of string `k` starts at its own tick, with the pins of its bit (rules R118 to R120, R122, R124). -/
theorem everyBitOfAnInjectionStartsOnTime : Obligations.EveryBitOfAnInjectionStartsOnTime := by
  intro s hwf hm hf hi k hk
  obtain ⟨hbit, hstr, -⟩ := (onlyUnsupportedParametersAreRefused.2.2 s.params).mp hwf
  have hstring := reaches_string hbit hstr hm hf hk
  refine ⟨fun i b hb => ?bit, fun hlast => ?pause⟩
  case bit =>
    obtain ⟨r, t, ht, hat⟩ := hstring.bits hbit (lt_of_printedBits hb)
    obtain ⟨rfl, hcode, hround⟩ := place_of_number hat.number_eq
    obtain ⟨hinj, hdir⟩ := hat.pins hi
    have hone : ∀ c : BitVec 1, (c == 1) = !decide (c = 0) := by decide
    rw [hat.sym_eq, hat.mode_eq, lastSymbolIsOne_succ hb] at hinj hdir
    refine ⟨t, ht, by rw [hat.fsm_eq, hcode], hround, hat.sym_eq, hat.delay_eq, hat.dataOut_low, by rw [hinj, hone], ?_⟩
    rw [hdir, Bool.not_not]
    rfl
  case pause =>
    obtain ⟨r, t, ht, hat⟩ := hstring.pause hbit hlast
    obtain ⟨rfl, hcode, -⟩ := place_of_number hat.number_eq
    obtain ⟨hinj, hdir⟩ := hat.pins hi
    rw [hat.sym_eq, (lastSymbolIsOne_pause _).2] at hinj hdir
    refine ⟨t, ht, by rw [hat.fsm_eq, hcode], BitVec.eq_of_toNat_eq hat.sym_eq, hat.delay_eq, ?_, by rw [hinj, Bool.and_false],
      hat.gate_eq⟩
    rw [dataLine, hdir, Bool.not_false, Bool.or_true, if_pos rfl, hat.dataOut_low]

end Sys2Proof.Proofs
end

section
/-! SUPPORT. The assembly of a packet from its 96 samples, with other operations of a cycle between them, and the statement about it
(rules R41, R81 to R86). -/

namespace Sys2Proof.Machine

/-! ## The samples of a packet -/

theorem packetSamples_length (p : PacketWord) : (packetSamples p).length = 96 := by simp [packetSamples]

theorem packetSamples_drop (p : PacketWord) {n : Nat} (hn : n < 96) :
    (packetSamples p).drop n = p.getLsbD n :: (packetSamples p).drop (n + 1) := by
  rw [List.drop_eq_getElem_cons (by rw [packetSamples_length]; exact hn)]
  simp [packetSamples]

theorem packetSamples_drop_last (p : PacketWord) : (packetSamples p).drop 95 = [p.getLsbD 95] := by
  rw [packetSamples_drop p (by decide), List.drop_eq_nil_of_le (by rw [packetSamples_length])]

/-! ## A packet in assembly -/

/-- The assembler holds the first `n` bits of the packet word `p` (rules R13 to R16, R41). -/
structure Assembled (p : PacketWord) (n : Nat) (s : State) : Prop where
  bitPos_eq : s.bitPos.toNat = n % 8
  pktPos_eq : s.pktPos.toNat = n / 8
  byteAcc_eq : ∀ j, s.byteAcc.getLsbD j = (decide (j < n % 8) && p.getLsbD (8 * (n / 8) + j))
  pkt_wf : Memory.wf s.pkt = true
  stored_eq : ∀ k, k < n / 8 → Memory.read s.pkt k = pktByte p k

theorem placeSample_getLsbD (d : Bool) (pos : BitVec 3) (j : Nat) : (placeSample d pos).getLsbD j = (decide (j = pos.toNat) && d) := by
  have hpos : pos.toNat < 8 := pos.isLt
  by_cases hj : j < 8
  · have hsmall : ∀ (d : Bool) (pos : BitVec 3), ∀ j < 8, (placeSample d pos).getLsbD j = (decide (j = pos.toNat) && d) := by decide
    exact hsmall d pos j hj
  · rw [BitVec.getLsbD_of_ge _ _ (by omega), decide_eq_false (by omega), Bool.false_and]

variable {p : PacketWord} {n : Nat} {s : State}

/-- The accumulator after the next bit of the packet (rule R82). -/
theorem Assembled.shifted (h : Assembled p n s) (j : Nat) :
    (s.byteAcc ||| placeSample (p.getLsbD n) s.bitPos).getLsbD j = (decide (j < n % 8 + 1) && p.getLsbD (8 * (n / 8) + j)) := by
  rw [BitVec.getLsbD_or, h.byteAcc_eq, placeSample_getLsbD, h.bitPos_eq]
  rcases Nat.lt_trichotomy j (n % 8) with hlt | rfl | hgt
  · simp [hlt, hlt.ne, Nat.lt_succ_of_lt hlt]
  · rw [Nat.div_add_mod]
    simp
  · simp [hgt.not_gt, hgt.ne', Nat.not_lt.mpr (Nat.succ_le_of_lt hgt)]

/-- The eighth bit completes the packet's byte. -/
theorem Assembled.full_byte (h : Assembled p n s) (hb : n % 8 = 7) :
    (if p.getLsbD n then s.byteAcc ||| 0x80 else s.byteAcc) = pktByte p (n / 8) := by
  have hpos : s.bitPos = 7 := BitVec.eq_of_toNat_eq (h.bitPos_eq.trans hb)
  have hor : (s.byteAcc ||| placeSample (p.getLsbD n) s.bitPos) = if p.getLsbD n then s.byteAcc ||| 0x80 else s.byteAcc := by
    rw [or_placeSample, hpos]
    rfl
  rw [← hor]
  refine BitVec.eq_of_getLsbD_eq fun j hj => ?_
  rw [h.shifted, pktByte_getLsbD, hb]

/-- A state that differs in the sampler's registers only, the sample's time among them. -/
def SamplerOnly (s t : State) : Prop :=
  t = { s with lastTs := s.usCount, bitPos := t.bitPos, byteAcc := t.byteAcc, pktPos := t.pktPos, pkt := t.pkt }

theorem pktPos_succ_toNat (k : BitVec 4) (h : k.toNat < 11) : (k + 1).toNat = k.toNat + 1 := by revert k; decide

/-- A sample before the last of the packet (rules R82, R83). -/
theorem Assembled.sample (h : Assembled p n s) (hn : n < 95) (hgap : Claims.gapUs s ≤ 180) :
    ∃ t, exec (.sqckRise (p.getLsbD n)) s = .next t ∧ SamplerOnly s t ∧ Assembled p (n + 1) t := by
  by_cases hb : n % 8 = 7
  · have hpos : s.bitPos = 7 := BitVec.eq_of_toNat_eq (h.bitPos_eq.trans hb)
    have hlt : s.pktPos.toNat < 11 := by
      rw [h.pktPos_eq]
      omega
    have hdiv : (n + 1) / 8 = n / 8 + 1 := by omega
    have hmod : (n + 1) % 8 = 0 := by omega
    refine ⟨_, Proofs.eighthSampleStoresTheByte s _ hgap hpos hlt, rfl, ?_⟩
    constructor
    case bitPos_eq => exact hmod.symm
    case pktPos_eq =>
      rw [hdiv, ← h.pktPos_eq]
      exact pktPos_succ_toNat s.pktPos hlt
    case byteAcc_eq => intro j; simp [hmod]
    case pkt_wf => exact Memory.wf_write _ h.pkt_wf (hlt.trans (by decide))
    case stored_eq =>
      intro k hk
      rw [h.full_byte hb, h.pktPos_eq]
      rcases Nat.lt_or_eq_of_le (Nat.le_of_lt_succ (hdiv ▸ hk)) with hlt | rfl
      · rw [Memory.read_write_other _ hlt.ne, h.stored_eq k hlt]
      · exact Memory.read_write_same _ h.pkt_wf
  · have hpos : s.bitPos ≠ 7 := fun e => hb (by rw [← h.bitPos_eq, e]; rfl)
    have hdiv : (n + 1) / 8 = n / 8 := by omega
    have hmod : (n + 1) % 8 = n % 8 + 1 := by omega
    refine ⟨_, Proofs.sampleIsOredAtTheBitPosition s _ hgap hpos, rfl, ?_⟩
    constructor
    case bitPos_eq => rw [hmod, ← h.bitPos_eq]; exact bitPos_succ_toNat s.bitPos hpos
    case pktPos_eq => rw [hdiv]; exact h.pktPos_eq
    case byteAcc_eq =>
      intro j
      rw [hmod, hdiv, ← h.shifted, or_placeSample]
    case pkt_wf => exact h.pkt_wf
    case stored_eq => rw [hdiv]; exact h.stored_eq

/-- The last sample of the packet classifies the packet (rule R84). -/
theorem Assembled.last (h : Assembled p 95 s) (hgap : Claims.gapUs s ≤ 180) :
    exec (.sqckRise (p.getLsbD 95)) s =
      classify { s with lastTs := s.usCount, bitPos := 0, byteAcc := 0, pktPos := 0, pkt := packetMemory p } := by
  have hmem : Memory.write s.pkt 11 (if p.getLsbD 95 then s.byteAcc ||| 0x80 else s.byteAcc) = packetMemory p := by
    rw [h.full_byte (by decide)]
    refine Memory.ext_of_read (Memory.wf_write _ h.pkt_wf (by decide)) (wf_packetMemory p) fun k hk => ?_
    rw [read_packetMemory p hk]
    rcases Nat.lt_or_eq_of_le (Nat.le_of_lt_succ hk) with hlt | rfl
    · rw [Memory.read_write_other _ hlt.ne, h.stored_eq k hlt]
    · exact Memory.read_write_same _ h.pkt_wf
  rw [Proofs.exec_sqckRise_last _ hgap (BitVec.eq_of_toNat_eq h.bitPos_eq) (BitVec.eq_of_toNat_eq h.pktPos_eq), hmem]

/-- The first sample of a packet, whether or not it resynchronises (rules R81, R86). -/
theorem assembled_first (p : PacketWord) (hwf : Memory.wf s.pkt = true) (hstart : Claims.AtPacketStart s) :
    ∃ t, exec (.sqckRise (p.getLsbD 0)) s = .next t ∧ SamplerOnly s t ∧ Assembled p 1 t := by
  have hexec : exec (.sqckRise (p.getLsbD 0)) s = .next { s with
      lastTs := s.usCount, bitPos := 1, byteAcc := if p.getLsbD 0 then 1 else 0, pktPos := 0 } := by
    by_cases hgap : 180 < Claims.gapUs s
    · exact Proofs.gapResynchronises s _ hgap
    · obtain ⟨hb, hacc, hpos⟩ := hstart.resolve_right hgap
      rw [Proofs.sampleIsOredAtTheBitPosition s _ (not_lt.mp hgap) (by rw [hb]; decide), hb, hacc, hpos]
      cases p.getLsbD 0 <;> rfl
  refine ⟨_, hexec, rfl, rfl, rfl, fun j => ?_, hwf, fun k hk => absurd hk (Nat.not_lt_zero k)⟩
  change (if p.getLsbD 0 then (1 : BitVec 8) else 0).getLsbD j = _
  rw [← or_placeSample_zero, BitVec.getLsbD_or, placeSample_getLsbD]
  cases j <;> simp

/-! ## Other operations between the samples -/

/-- The sampler's registers, the buffer and the counter `hyst` are as before. -/
structure SamplerKept (s t : State) : Prop where
  bitPos_eq : t.bitPos = s.bitPos
  byteAcc_eq : t.byteAcc = s.byteAcc
  pktPos_eq : t.pktPos = s.pktPos
  pkt_eq : t.pkt = s.pkt
  hyst_eq : t.hyst = s.hyst

theorem Assembled.congr {t : State} (h : Assembled p n s) (hk : SamplerKept s t) : Assembled p n t where
  bitPos_eq := by rw [hk.bitPos_eq, h.bitPos_eq]
  pktPos_eq := by rw [hk.pktPos_eq, h.pktPos_eq]
  byteAcc_eq := by rw [hk.byteAcc_eq]; exact h.byteAcc_eq
  pkt_wf := by rw [hk.pkt_eq, h.pkt_wf]
  stored_eq := by rw [hk.pkt_eq]; exact h.stored_eq

theorem execUsTick_samplerKept {t : State} (h : exec .usTick s = .next t) : SamplerKept s t := by
  rw [(execUsTick_frame h).1]
  exact ⟨rfl, rfl, rfl, rfl, rfl⟩

theorem execGateEdge_samplerKept {l : Bool} {t : State} (h : execGateEdge l s = .next t) : SamplerKept s t := by
  rw [execGateEdge_frame h]
  exact ⟨rfl, rfl, rfl, rfl, rfl⟩

theorem send_sym_le {r : Region} {t : State} (hf : s.fsm = Region.code r) (hs : s.sym.toNat ≤ 45) (h : send r s = .next t) :
    t.sym.toNat ≤ 45 := by
  rcases send_outcome hf h with ⟨-, rfl⟩ | ⟨q, rd, b, i, j, hb, hj, rfl⟩ | ⟨-, rfl⟩ | ⟨-, rfl⟩
  · exact hs
  · have hlt := lt_of_printedBits hb
    change j.toNat ≤ 45
    omega
  · exact le_refl 45
  · exact Nat.zero_le 45

/-- A tick keeps the symbol counter in its range (rule R23). -/
theorem execUsTick_sym_le {t : State} (hs : s.sym.toNat ≤ 45) (h : exec .usTick s = .next t) : t.sym.toNat ≤ 45 := by
  rw [exec_usTick] at h
  generalize hu : finalizeAtTick (timebase s) = u at h
  have hfsm : u.fsm = s.fsm := by simp [← hu]
  have hsym : u.sym.toNat ≤ 45 := by simpa [← hu] using hs
  cases hrow : fsmRow s.fsm <;> rw [hrow] at h <;> have hf := hfsm.trans (fsm_of_row hrow)
  case waitMode =>
    change execWaitMode u = _ at h
    unfold execWaitMode at h
    split at h <;> cases h <;> exact hsym
  case waitReq =>
    change execWaitReq u = _ at h
    unfold execWaitReq at h
    split at h <;> cases h <;> exact hsym
  case start => cases h; exact Nat.zero_le 45
  case sendE => exact send_sym_le (r := .scee) hf hsym h
  case sendA => exact send_sym_le (r := .scea) hf hsym h
  case sendI => exact send_sym_le (r := .scei) hf hsym h
  case endInjection => cases h; simpa using hsym
  case reserved7 => cases h; exact hsym

/-- A tick raises no request (rules R29, R113). -/
theorem execUsTick_request {t : State} (h : exec .usTick s = .next t) (ht : t.reqPending = true) : s.reqPending = true := by
  rcases (execUsTick_frame h).2 with hreq | ⟨-, hreq, -, -⟩
  · rwa [← hreq]
  · exact hreq

/-- Every operation of a cycle without `rst` that is no sample completes, with the sampler as before and no request raised. -/
theorem other_event_completes {i : Instr} (hi : Claims.isEvent i = true) (hns : Claims.sampleOf i = none) (hs : s.sym.toNat ≤ 45) :
    ∃ t, exec i s = .next t ∧ SamplerKept s t ∧ t.sym.toNat ≤ 45 ∧ (t.reqPending = true → s.reqPending = true) := by
  cases i
  case nop => exact ⟨s, rfl, ⟨rfl, rfl, rfl, rfl, rfl⟩, hs, id⟩
  case sqckRise d => cases hns
  case gateEdge l =>
    refine ⟨_, exec_gateEdge l s, execGateEdge_samplerKept (l := l) rfl, ?_, ?_⟩ <;> rw [execGateEdge_frame (l := l) (s := s) rfl]
    · exact hs
    · exact id
  case usTick =>
    obtain ⟨t, ht, -⟩ := Proofs.tickCompletesInEveryState s hs
    exact ⟨t, ht, execUsTick_samplerKept ht, execUsTick_sym_le hs ht, execUsTick_request ht⟩
  all_goals cases hi

theorem noResync_cons {i : Instr} {is : List Instr} {t : State} (h : Claims.noResync (i :: is) s = true) (ht : exec i s = .next t) :
    ((Claims.sampleOf i).isSome = true → Claims.gapUs s ≤ 180) ∧ Claims.noResync is t = true := by
  simp only [Claims.noResync, ht, Bool.and_eq_true, Bool.or_eq_true, Bool.not_eq_true', decide_eq_true_eq] at h
  exact ⟨fun hsome => h.1.resolve_left (by simp [hsome]), h.2⟩

theorem SamplerOnly.kept {t : State} (h : SamplerOnly s t) :
    t.hyst = s.hyst ∧ t.reqPending = s.reqPending ∧ t.sym = s.sym ∧ t.usCount = s.usCount ∧ t.lastTs = s.usCount := by
  rw [h]
  exact ⟨rfl, rfl, rfl, rfl, rfl⟩

/-- The operations between the samples of a packet, none of which resynchronises: they complete, and the last sample finds the other 95
assembled. -/
theorem Assembled.run {ops : List Instr} (h : Assembled p n s) (hn : n ≤ 95) (hs : s.sym.toNat ≤ 45)
    (hev : ∀ i ∈ ops, Claims.isEvent i = true)
    (hsamples : ops.filterMap Claims.sampleOf ++ [p.getLsbD 95] = (packetSamples p).drop n)
    (hgap : Claims.noResync (ops ++ [.sqckRise (p.getLsbD 95)]) s = true) :
    ∃ u, runOps ops s = .next u ∧ Assembled p 95 u ∧ Claims.gapUs u ≤ 180 ∧ u.hyst = s.hyst ∧
      (u.reqPending = true → s.reqPending = true) := by
  induction ops generalizing s n with
  | nil =>
    have hlen := congrArg List.length hsamples
    rw [List.length_drop, packetSamples_length] at hlen
    obtain rfl : n = 95 := by
      simp at hlen
      omega
    refine ⟨s, rfl, h, ?_, rfl, id⟩
    simp only [List.nil_append, Claims.noResync, Bool.and_eq_true, Bool.or_eq_true, decide_eq_true_eq] at hgap
    exact hgap.1.resolve_left (by simp [Claims.sampleOf])
  | cons i ops ih =>
    have hev' : ∀ j ∈ ops, Claims.isEvent j = true := fun j hj => hev j (List.mem_cons_of_mem _ hj)
    cases hsample : Claims.sampleOf i with
    | none =>
      obtain ⟨t, ht, hkept, hsym, hreq⟩ := other_event_completes (hev i List.mem_cons_self) hsample hs
      rw [List.filterMap_cons_none hsample] at hsamples
      obtain ⟨u, hu, hat, hgapu, hhyst, hrequ⟩ := ih (h.congr hkept) hn hsym hev' hsamples (noResync_cons hgap ht).2
      exact ⟨u, by rw [runOps_cons, ht, andThen_next, hu], hat, hgapu, hhyst.trans hkept.hyst_eq, fun e => hreq (hrequ e)⟩
    | some d =>
      obtain rfl : i = .sqckRise d := by
        cases i <;> cases hsample
        rfl
      rw [List.filterMap_cons_some hsample, packetSamples_drop p (Nat.lt_succ_of_le hn), List.cons_append] at hsamples
      obtain ⟨rfl, htail⟩ := List.cons.inj hsamples
      have hlt : n < 95 := by
        rcases Nat.lt_or_eq_of_le hn with hlt | rfl
        · exact hlt
        · rw [List.drop_eq_nil_of_le (by rw [packetSamples_length])] at htail
          cases List.append_ne_nil_of_right_ne_nil _ (List.cons_ne_nil _ _) htail
      have hgaps : Claims.gapUs s ≤ 180 := by
        simp only [List.cons_append, Claims.noResync, Bool.and_eq_true, Bool.or_eq_true, decide_eq_true_eq] at hgap
        exact hgap.1.resolve_left (by simp [Claims.sampleOf])
      obtain ⟨t, ht, honly, hat⟩ := h.sample hlt hgaps
      obtain ⟨hhyst, hreq, hsym, -, -⟩ := honly.kept
      obtain ⟨u, hu, hatu, hgapu, hhystu, hrequ⟩ := ih hat hlt (hsym ▸ hs) hev' htail (noResync_cons hgap ht).2
      exact ⟨u, by rw [runOps_cons, ht, andThen_next, hu], hatu, hgapu, hhystu.trans hhyst, fun e => hreq ▸ hrequ e⟩

/-! ## Samples alone -/

theorem gapUs_of_fresh (h : s.lastTs = s.usCount) : Claims.gapUs s = 0 := by
  rw [Claims.gapUs, h, sub_self, Int.zero_emod]

/-- The rest of a packet, without other operations between the samples. -/
theorem Assembled.samples (h : Assembled p n s) (hfresh : s.lastTs = s.usCount) (hn : n ≤ 95) :
    samples ((packetSamples p).drop n) s =
      classify { s with lastTs := s.usCount, bitPos := 0, byteAcc := 0, pktPos := 0, pkt := packetMemory p } := by
  have hgap : Claims.gapUs s ≤ 180 := by rw [gapUs_of_fresh hfresh]; decide
  obtain ⟨m, hm⟩ : ∃ m, m = 95 - n := ⟨_, rfl⟩
  induction m generalizing s n with
  | zero =>
    obtain rfl : n = 95 := by omega
    rw [packetSamples_drop_last, Machine.samples, List.map_singleton, runOps_singleton, h.last hgap]
  | succ m ih =>
    obtain ⟨t, ht, honly, hat⟩ := h.sample (by omega) hgap
    obtain ⟨-, -, -, hus, hlast⟩ := honly.kept
    have hrest := ih hat (hlast.trans hus.symm) (by omega) (by rw [gapUs_of_fresh (hlast.trans hus.symm)]; decide) (by omega)
    rw [packetSamples_drop p (by omega), Machine.samples, List.map_cons, runOps_cons, ht, andThen_next]
    refine hrest.trans ?_
    rw [honly]

end Sys2Proof.Machine

namespace Sys2Proof.Proofs

open Sys2Proof.Machine

/-- The 96 samples of a packet alone (rule R86). -/
theorem samples_of_packet {s : State} (p : PacketWord) (hwf : Memory.wf s.pkt = true) (hstart : Claims.AtPacketStart s) :
    samples (packetSamples p) s =
      classify { s with lastTs := s.usCount, bitPos := 0, byteAcc := 0, pktPos := 0, pkt := packetMemory p } := by
  obtain ⟨t, ht, honly, hat⟩ := assembled_first p hwf hstart
  obtain ⟨-, -, -, hus, hlast⟩ := honly.kept
  have hrest := hat.samples (hlast.trans hus.symm) (by decide)
  rw [← List.drop_zero (l := packetSamples p), packetSamples_drop p (by decide), samples, List.map_cons, runOps_cons, ht, andThen_next]
  refine hrest.trans ?_
  rw [honly]

/-- Settles O22: the first sample starts the assembly, the operations between the samples keep it, and the last classifies the packet
(rules R41, R82 to R86). -/
theorem packetIsAssembledAndClassifiedOnce : Obligations.PacketIsAssembledAndClassifiedOnce := by
  refine ⟨fun s p hwf hstart => ⟨samples_of_packet p hwf hstart, fun k hk => read_packetMemory p hk, wf_packetMemory p⟩,
    fun s p ops hwf hstart hs hev hsamples hgap => ?_⟩
  obtain ⟨a, ha, honly, hat⟩ := assembled_first p hwf hstart
  obtain ⟨hhyst, hreq, hsym, -, -⟩ := honly.kept
  rw [← List.drop_zero (l := packetSamples p), packetSamples_drop p (by decide)] at hsamples
  obtain ⟨u, hu, hatu, hgapu, hhystu, hrequ⟩ :=
    hat.run (by decide) (hsym ▸ hs) hev (List.cons.inj hsamples).2 (hgap a ha)
  exact ⟨u, by rw [runOps_cons, ha, andThen_next, hu], hhystu.trans hhyst, fun e => hreq ▸ hrequ e, hatu.last hgapu⟩

end Sys2Proof.Proofs
end

section
/-! SUPPORT. Primary packets in a row: how each moves the counter, with and without ticks between the samples; and the statement about them
(rule R97, property S5). -/

namespace Sys2Proof.Machine

/-! ## One primary packet -/

/-- No injection runs and no request is pending, and the counter stands at `k`. -/
structure Counted (γ : Grouping) (k : Nat) (s : State) : Prop where
  grouping_eq : s.params.grouping = γ
  hyst_eq : s.hyst.toNat = k
  no_request : s.reqPending = false
  no_injection : s.injectionRunning = false

/-- The positions are those of the start of a packet. -/
def AtZero (s : State) : Prop := s.bitPos = 0 ∧ s.byteAcc = 0 ∧ s.pktPos = 0

/-- The `k`-th primary packet in a row has just been classified: below 14 it is counted, the fourteenth clamps the counter and requests. -/
structure PacketsDone (γ : Grouping) (k : Nat) (s : State) : Prop where
  positions : AtZero s
  pkt_wf : Memory.wf s.pkt = true
  counted : k < 14 → Counted γ k s
  requested : k = 14 → s.hyst = 11 ∧ s.reqPending = true

variable {γ : Grouping} {k g n : Nat} {p : PacketWord} {s : State}

/-- A primary packet raises the counter, and the fourteenth requests (rules R91, R94, R95). -/
theorem Counted.classify_primary (h : Counted γ k s) (hk : k < 14) (hp : primaryMatch γ (packetWord s.pkt) = true) :
    classify s = .next { s with hyst := if k = 13 then 11 else s.hyst + 1, reqPending := decide (k = 13) } := by
  obtain ⟨rfl, rfl, hreq, hinj⟩ := h
  have hle : s.hyst.toNat ≤ 13 := Nat.le_of_lt_succ hk
  have hcls : pktClass s.params.grouping (decide (s.hyst ≠ 0)) (packetWord s.pkt) = .primary := if_pos hp
  have hclamp : s.hyst + 1 = 14 ↔ s.hyst.toNat = 13 := by generalize s.hyst = x; revert x; decide
  rw [classify_of_le hle, hcls, threshold_eq (hystAfter_le _ hle)]
  simp only [Claims.hystAfter, hclamp, hreq, hinj, Bool.false_or, Bool.not_false, Bool.and_true]

theorem Counted.packet (h : Counted γ k s) (hk : k < 14) (hp : primaryMatch γ p = true) :
    ∃ t, classify { s with lastTs := s.usCount, bitPos := 0, byteAcc := 0, pktPos := 0, pkt := packetMemory p } = .next t ∧
      t.fsm = s.fsm ∧ PacketsDone γ (k + 1) t := by
  obtain ⟨hγ, hhyst, hreq, hinj⟩ := h
  refine ⟨_, Counted.classify_primary ⟨hγ, hhyst, hreq, hinj⟩ hk (by rwa [packetWord_packetMemory]), rfl, ?_⟩
  constructor
  case positions => exact ⟨rfl, rfl, rfl⟩
  case pkt_wf => exact wf_packetMemory p
  case counted =>
    intro hlt
    have hne : k ≠ 13 := by omega
    refine ⟨hγ, ?_, decide_eq_false hne, hinj⟩
    change (if k = 13 then (11 : BitVec 4) else s.hyst + 1).toNat = k + 1
    rw [if_neg hne, BitVec.toNat_add, hhyst]
    exact Nat.mod_eq_of_lt (by change k + 1 < 16; omega)
  case requested =>
    intro h14
    obtain rfl : k = 13 := by omega
    exact ⟨rfl, rfl⟩

/-- At the start of a packet, with `k` packets counted. -/
structure AwaitsPacket (γ : Grouping) (k : Nat) (s : State) : Prop where
  counted : Counted γ k s
  start : Claims.AtPacketStart s
  pkt_wf : Memory.wf s.pkt = true

theorem PacketsDone.awaits (h : PacketsDone γ k s) (hk : k < 14) : AwaitsPacket γ k s := ⟨h.counted hk, .inl h.positions, h.pkt_wf⟩

/-- What the counter and the request slot show after `k` primary packets (rule R97). -/
theorem PacketsDone.outcome (h : PacketsDone γ k s) :
    s.bitPos = 0 ∧ s.pktPos = 0 ∧ s.byteAcc = 0 ∧ (k < 14 → s.hyst.toNat = k ∧ s.reqPending = false) ∧
      (k = 14 → s.hyst = 11 ∧ s.reqPending = true) := by
  obtain ⟨⟨hbit, hacc, hpos⟩, -, hcounted, hrequested⟩ := h
  exact ⟨hbit, hpos, hacc, fun hk => ⟨(hcounted hk).hyst_eq, (hcounted hk).no_request⟩, hrequested⟩

/-! ## Ticks while the controller waits -/

/-- The controller waits for the mode or for a request. -/
def Waits (s : State) : Prop := s.fsm = 0 ∨ s.fsm = 1

/-- A tick while the controller waits without a request moves the time base and the mode only (rules R112, R113). -/
theorem exec_usTick_of_waits (hw : Waits s) (hreq : s.reqPending = false) :
    ∃ c, (c = 0 ∨ c = 1) ∧ exec .usTick s = .next { finalizeAtTick (timebase s) with fsm := c } := by
  have hfsm : (finalizeAtTick (timebase s)).fsm = s.fsm := by simp
  rw [exec_usTick]
  rcases hw with hf | hf <;> rw [hf] at hfsm ⊢
  · change ∃ c, _ ∧ exec .waitMode (finalizeAtTick (timebase s)) = _
    rw [exec_waitMode]
    split
    · exact ⟨1, .inr rfl, rfl⟩
    · exact ⟨0, .inl rfl, by rw [← hfsm]⟩
  · refine ⟨1, .inr rfl, ?_⟩
    change exec .waitReq (finalizeAtTick (timebase s)) = _
    rw [exec_waitReq, if_neg (by simp [hreq]), ← hfsm]

/-- One tick lengthens the gap by at most one; where the gap wraps it becomes 0. -/
theorem gapUs_succ_le {t : State} (hparams : t.params = s.params) (hlast : t.lastTs = s.lastTs)
    (hus : t.usCount = (s.usCount + 1) % 2 ^ s.params.tsw) : Claims.gapUs t ≤ Claims.gapUs s + 1 := by
  have hgap : Claims.gapUs t = (Claims.gapUs s + 1) % ((2 ^ s.params.tsw : Nat) : Int) := by
    rw [Claims.gapUs, Claims.gapUs, hparams, hlast, hus, Int.natCast_mod, Int.emod_sub_emod, Int.emod_add_emod]
    congr 1
    push_cast
    ring
  rw [hgap, ← elapsed_eq_gapUs]
  exact_mod_cast Nat.mod_le (elapsed s + 1) (2 ^ s.params.tsw)

/-- What ticks leave as it was while the controller waits. -/
theorem ticks_of_waits (hw : Waits s) (hc : Counted γ k s) (n : Nat) :
    ∃ t, runOps (List.replicate n .usTick) s = .next t ∧ Waits t ∧ Counted γ k t ∧ SamplerKept s t ∧
      Claims.gapUs t ≤ Claims.gapUs s + n := by
  induction n generalizing s with
  | zero => exact ⟨s, rfl, hw, hc, ⟨rfl, rfl, rfl, rfl, rfl⟩, by simp⟩
  | succ n ih =>
    obtain ⟨c, hcode, ht⟩ := exec_usTick_of_waits hw hc.no_request
    obtain ⟨hγ, hhyst, hreq, hinj⟩ := hc
    obtain ⟨u, hu, hwu, hcu, hk, hgap⟩ := ih hcode
      (s := { finalizeAtTick (timebase s) with fsm := c }) (by constructor <;> simpa)
    have hstep := gapUs_succ_le (s := s) (by simp) (by simp) (exec_usTick_usCount ht)
    have hkept := execUsTick_samplerKept ht
    refine ⟨u, by rw [List.replicate_succ, runOps_cons, ht, andThen_next, hu], hwu, hcu, ?_, by push_cast; omega⟩
    exact ⟨hk.bitPos_eq.trans hkept.bitPos_eq, hk.byteAcc_eq.trans hkept.byteAcc_eq, hk.pktPos_eq.trans hkept.pktPos_eq,
      hk.pkt_eq.trans hkept.pkt_eq, hk.hyst_eq.trans hkept.hyst_eq⟩

/-! ## One primary packet with ticks -/

theorem SamplerOnly.waits {t : State} (h : SamplerOnly s t) (hw : Waits s) (hc : Counted γ k s) : Waits t ∧ Counted γ k t := by
  rw [h]
  exact ⟨hw, hc.grouping_eq, hc.hyst_eq, hc.no_request, hc.no_injection⟩

/-- A sample of the packet with the `g` ticks before it. -/
def tickedSample (g : Nat) (d : Bool) : List Instr := List.replicate g .usTick ++ [.sqckRise d]

theorem runOps_tickedSample {t : State} (h : runOps (List.replicate g .usTick) s = .next t) (d : Bool) :
    runOps (tickedSample g d) s = exec (.sqckRise d) t := by
  rw [tickedSample, runOps_append, h, andThen_next, runOps_singleton]

/-- The rest of a primary packet, `g` ticks before each sample: the ticks never resynchronise (rule R86). -/
theorem Assembled.ticked_rest (h : Assembled p n s) (hn : n ≤ 95) (hfresh : s.lastTs = s.usCount) (hw : Waits s) (hc : Counted γ k s)
    (hg : g ≤ 180) (hk : k < 14) (hp : primaryMatch γ p = true) :
    ∃ t, runOps (((packetSamples p).drop n).map (tickedSample g)).flatten s = .next t ∧ Waits t ∧ PacketsDone γ (k + 1) t := by
  obtain ⟨u, hu, hwu, hcu, hkept, hgap⟩ := ticks_of_waits hw hc g
  have hsmall : Claims.gapUs u ≤ 180 := by
    rw [gapUs_of_fresh hfresh] at hgap
    omega
  have hat := h.congr hkept
  obtain ⟨m, hm⟩ : ∃ m, m = 95 - n := ⟨_, rfl⟩
  induction m generalizing s n u with
  | zero =>
    obtain rfl : n = 95 := by omega
    obtain ⟨t, ht, hfsm, hdone⟩ := hcu.packet hk hp
    refine ⟨t, ?_, by rwa [Waits, hfsm], hdone⟩
    rw [packetSamples_drop_last, List.map_singleton, List.flatten_singleton, runOps_tickedSample hu, hat.last hsmall, ht]
  | succ m ih =>
    obtain ⟨t, ht, honly, hatt⟩ := hat.sample (by omega) hsmall
    obtain ⟨-, -, -, hus, hlast⟩ := honly.kept
    have hfresht : t.lastTs = t.usCount := hlast.trans hus.symm
    obtain ⟨hwt, hct⟩ := honly.waits hwu hcu
    obtain ⟨v, hv, hwv, hcv, hkeptv, hgapv⟩ := ticks_of_waits hwt hct g
    rw [gapUs_of_fresh hfresht] at hgapv
    obtain ⟨w, hrun, hdone⟩ := ih hatt (by omega) hfresht hwt hct v hv hwv hcv hkeptv (by rw [gapUs_of_fresh hfresht]; exact hgapv)
      (by omega) (hatt.congr hkeptv) (by omega)
    refine ⟨w, ?_, hdone⟩
    rw [packetSamples_drop p (by omega), List.map_cons, List.flatten_cons, runOps_append, runOps_tickedSample hu, ht, andThen_next, hrun]

/-- Between two packets of `packetWithTicks`, with `k` of them counted. -/
structure WaitsForPacket (γ : Grouping) (k : Nat) (s : State) : Prop where
  counted : Counted γ k s
  waits : Waits s
  positions : AtZero s
  pkt_wf : Memory.wf s.pkt = true

/-- A primary packet, `n` ticks before it and `g` before each of its samples. -/
theorem WaitsForPacket.packet (h : WaitsForPacket γ k s) (hg : g ≤ 180) (hk : k < 14) (hp : primaryMatch γ p = true) (n : Nat) :
    ∃ t, runOps (Claims.packetWithTicks n g p) s = .next t ∧ Waits t ∧ PacketsDone γ (k + 1) t := by
  obtain ⟨hc, hw, ⟨hbit, hacc, hpos⟩, hwf⟩ := h
  obtain ⟨a, ha, hwa, hca, hkepta, -⟩ := ticks_of_waits hw hc n
  obtain ⟨b, hb, hwb, hcb, hkeptb, -⟩ := ticks_of_waits hwa hca g
  have hzb : AtZero b := ⟨by rw [hkeptb.bitPos_eq, hkepta.bitPos_eq, hbit], by rw [hkeptb.byteAcc_eq, hkepta.byteAcc_eq, hacc],
    by rw [hkeptb.pktPos_eq, hkepta.pktPos_eq, hpos]⟩
  obtain ⟨t, ht, honly, hat⟩ := assembled_first p (by rwa [hkeptb.pkt_eq, hkepta.pkt_eq]) (.inl hzb)
  obtain ⟨-, -, -, hus, hlast⟩ := honly.kept
  obtain ⟨hwt, hct⟩ := honly.waits hwb hcb
  obtain ⟨w, hrun, hdone⟩ := hat.ticked_rest (by decide) (hlast.trans hus.symm) hwt hct hg hk hp
  refine ⟨w, ?_, hdone⟩
  change runOps (List.replicate n .usTick ++ ((packetSamples p).map (tickedSample g)).flatten) s = _
  rw [← List.drop_zero (l := packetSamples p), packetSamples_drop p (by decide), runOps_append, ha, andThen_next, List.map_cons,
    List.flatten_cons, runOps_append, runOps_tickedSample hb, ht, andThen_next, hrun]

/-! ## Packets in a row -/

/-- Packets in a row: each takes a state before a packet to the state after it, which the next one starts from. -/
theorem runOps_packets {α : Type} {Pre Post : Nat → State → Prop} {ops : α → List Instr} {ok : α → Prop}
    (hstep : ∀ {m : Nat} {a : α} {s : State}, m < 14 → ok a → Pre m s → ∃ t, runOps (ops a) s = .next t ∧ Post (m + 1) t)
    (hnext : ∀ {m : Nat} {s : State}, m < 14 → Post m s → Pre m s)
    {m : Nat} {s : State} (as : List α) (hs : Pre m s) (hok : ∀ a ∈ as, ok a) (hne : 1 ≤ as.length) (hlen : m + as.length ≤ 14) :
    ∃ t, runOps (as.map ops).flatten s = .next t ∧ Post (m + as.length) t := by
  induction as generalizing m s with
  | nil => cases hne
  | cons a as ih =>
    rw [List.length_cons] at hlen ⊢
    obtain ⟨t, ht, hpost⟩ := hstep (by omega) (hok a List.mem_cons_self) hs
    rw [List.map_cons, List.flatten_cons, runOps_append, ht, andThen_next]
    cases as with
    | nil => exact ⟨t, rfl, hpost⟩
    | cons b bs =>
      obtain ⟨u, hu, hpostu⟩ :=
        ih (hnext (by simp at hlen; omega) hpost) (fun c hc => hok c (List.mem_cons_of_mem a hc)) (by simp) (by omega)
      exact ⟨u, hu, by rwa [Nat.add_comm _ 1, ← Nat.add_assoc]⟩

theorem samples_flatten (ps : List PacketWord) :
    samples (ps.map packetSamples).flatten = runOps (ps.map fun p => (packetSamples p).map .sqckRise).flatten := by
  funext s
  rw [samples, List.map_flatten, List.map_map]
  rfl

/-- The 96 samples of a primary packet alone (rules R84, R91). -/
theorem AwaitsPacket.samples (h : AwaitsPacket γ k s) (hk : k < 14) (hp : primaryMatch γ p = true) :
    ∃ t, runOps ((packetSamples p).map .sqckRise) s = .next t ∧ PacketsDone γ (k + 1) t := by
  obtain ⟨t, ht, -, hdone⟩ := h.counted.packet hk hp
  exact ⟨t, (Proofs.samples_of_packet p h.pkt_wf h.start).trans ht, hdone⟩

end Sys2Proof.Machine

namespace Sys2Proof.Proofs

open Sys2Proof.Machine

/-- Settles O27: the counter after each packet in a row, without ticks by the packet's samples alone and with ticks by their short gaps
(rule R97, property S5). -/
theorem fourteenPrimaryPacketsRequestOnce : Obligations.FourteenPrimaryPacketsRequestOnce := by
  refine ⟨fun s ps hwf hstart hhyst hreq hinj hok hne hlen => ?samples,
    fun s g ps hwf hbit hacc hpos hhyst hreq hinj hw hg hok hne hlen => ?ticks⟩ <;>
    have hcounted : Counted s.params.grouping 0 s := ⟨rfl, by rw [hhyst]; rfl, hreq, hinj⟩ <;>
    rw [← Nat.zero_add ps.length] at hlen ⊢
  case samples =>
    obtain ⟨t, ht, hdone⟩ := runOps_packets (Post := PacketsDone s.params.grouping) (fun hm hp h => h.samples hm hp)
      (fun hm h => h.awaits hm) ps ⟨hcounted, hstart, hwf⟩ hok hne hlen
    exact ⟨t, by rw [samples_flatten, ht], hdone.outcome⟩
  case ticks =>
    obtain ⟨t, ht, -, hdone⟩ := runOps_packets (Pre := WaitsForPacket s.params.grouping)
      (Post := fun m t => Waits t ∧ PacketsDone s.params.grouping m t)
      (fun hm hp h => h.packet hg hm hp _) (fun hm h => ⟨h.2.counted hm, h.1, h.2.positions, h.2.pkt_wf⟩)
      ps ⟨hcounted, hw, ⟨hbit, hacc, hpos⟩, hwf⟩ hok hne hlen
    exact ⟨t, ht, hdone.outcome⟩

end Sys2Proof.Proofs
end
